-- ==== Sys2Proof/Word.lean ====
section
/-! DEFINITION. The words of the block: bytes of a frame or a reply, and the 16-bit values (spec/00_scope.md R8, R9). -/

namespace Sys2Proof

/-- A byte of a frame or a reply, bit 7 most significant (R8). -/
abbrev Byte := BitVec 8

/-- A 16-bit value: PVAL, VRAW, FW_PID (R8, R21, R26). -/
abbrev Half := BitVec 16

end Sys2Proof
end

