-- ==== Sys2Proof/Config.lean ====
section
/-! DEFINITION. What an implementation fixes: the parameters of spec/00_scope.md R7, the OPEN ones as plain data, and the one free value. -/

namespace Sys2Proof

/-- HEADER, the first byte of every Addressed frame (R7, R24). -/
def header : Byte := 0xAA

/-- PWM13_MAX (R7). -/
abbrev pwm13Max : Nat := 3200
/-- PWM7_MAX (R7). -/
abbrev pwm7Max : Nat := 127
/-- DUTY_MAX (R7). DUTY_MIN is 0 (90_conflicts.md C2), so no lower check exists. -/
abbrev dutyMax : Nat := 32
/-- DEV_MAX (R7). -/
abbrev devMax : Nat := 127
/-- LVAL_MAX (R7). -/
abbrev limitValueMax : Nat := 16383
/-- The highest id a configuration may call valid (30_encoding.md R90(c)). -/
abbrev idMax : Nat := 127

/-- An opcode table, one 8-bit opcode per command (30_encoding.md R89). -/
structure OpcodeTable where
  exitSafeStart    : Byte
  motorForward     : Byte
  motorReverse     : Byte
  motorForward7Bit : Byte
  motorReverse7Bit : Byte
  brake            : Byte
  stop             : Byte
  setLimit         : Byte
  getVariable      : Byte
  getFirmware      : Byte
  deriving DecidableEq, Repr

/-- The OPEN parameters of R7: both opcode tables and the members of the two identifier enumerations. They are data, so
a statement is made for every configuration; `State` holds one and no step writes it (10_state.md R24, R254). -/
structure Config where
  /-- OPC_A -/
  opcA     : OpcodeTable
  /-- OPC_B -/
  opcB     : OpcodeTable
  /-- the ids with LimitIdValid -/
  limitIds : List Byte
  /-- the ids with VarIdValid -/
  varIds   : List Byte
  deriving DecidableEq, Repr

/-- LimitIdValid (R7). -/
def Config.limitIdValid (cfg : Config) (id : Byte) : Bool := cfg.limitIds.contains id

/-- VarIdValid (R7). -/
def Config.varIdValid (cfg : Config) (id : Byte) : Bool := cfg.varIds.contains id

/-- FREE VALUE (93_implementation_defined.md U8, log 18): the digit a BCD nibble 10..15 reads as. Nothing is known of it. -/
opaque Config.undefinedDigit : BitVec 4 → Nat

end Sys2Proof
end

