-- ==== Sys2Proof/Syntax.lean ====
section
/-! DEFINITION. The instruction set: ten commands in two addressing modes, and three reply formats (spec/00_scope.md R2,
30_encoding.md R96). One constructor of `Instr` per row of spec/opcode_table.json. -/

namespace Sys2Proof

/-- The two addressing modes (R2). -/
inductive Mode
  | addressed
  | broadcast
  deriving DecidableEq, Repr

/-- The closed set of ten commands (R2). -/
inductive Command
  | exitSafeStart
  | motorForward
  | motorReverse
  | motorForward7Bit
  | motorReverse7Bit
  | brake
  | stop
  | setLimit
  | getVariable
  | getFirmware
  deriving DecidableEq, Repr

/-- A request as the encoder's input ports carry it (10_state.md R21): every value of every port, reserved codes too. -/
structure Req where
  /-- CMD -/
  cmd  : BitVec 4
  /-- MODE -/
  mode : Mode
  /-- DEV -/
  dev  : Byte
  /-- PVAL -/
  pval : Half
  /-- PID -/
  pid  : Byte
  deriving DecidableEq, Repr

/-- The rows of the opcode table. `A` is Addressed and takes the device id, `B` is Broadcast. A row carries exactly the
inputs its rule lists under "Operands" (R99, R127), at the full port width, so values a rule rejects can be said too. -/
inductive Instr
  /-- ExitSafeStart.A (R130) -/
  | exitSafeStartA (dev : Byte)
  /-- ExitSafeStart.B (R130) -/
  | exitSafeStartB
  /-- MotorForward.A (R131) -/
  | motorForwardA (dev : Byte) (pwm : Half)
  /-- MotorForward.B (R131) -/
  | motorForwardB (pwm : Half)
  /-- MotorReverse.A (R132) -/
  | motorReverseA (dev : Byte) (pwm : Half)
  /-- MotorReverse.B (R132) -/
  | motorReverseB (pwm : Half)
  /-- MotorForward7Bit.A (R133) -/
  | motorForward7BitA (dev : Byte) (pwm : Half)
  /-- MotorForward7Bit.B (R133) -/
  | motorForward7BitB (pwm : Half)
  /-- MotorReverse7Bit.A (R134) -/
  | motorReverse7BitA (dev : Byte) (pwm : Half)
  /-- MotorReverse7Bit.B (R134) -/
  | motorReverse7BitB (pwm : Half)
  /-- Brake.A (R135) -/
  | brakeA (dev : Byte) (duty : Half)
  /-- Brake.B (R135) -/
  | brakeB (duty : Half)
  /-- Stop.A (R136) -/
  | stopA (dev : Byte)
  /-- Stop.B (R136) -/
  | stopB
  /-- SetLimit.A (R137) -/
  | setLimitA (dev : Byte) (limitId : Byte) (value : Half)
  /-- SetLimit.B, rejected (R124, R137) -/
  | setLimitB (limitId : Byte) (value : Half)
  /-- GetVariable.A (R138) -/
  | getVariableA (dev : Byte) (variableId : Byte)
  /-- GetVariable.B, rejected (R124, R138) -/
  | getVariableB (variableId : Byte)
  /-- GetFirmware.A (R139) -/
  | getFirmwareA (dev : Byte)
  /-- GetFirmware.B, rejected (R124, R139) -/
  | getFirmwareB
  /-- SetLimit.reply (R174) -/
  | setLimitReply (b0 : Byte)
  /-- GetVariable.reply (R175) -/
  | getVariableReply (b0 b1 : Byte)
  /-- GetFirmware.reply (R176) -/
  | getFirmwareReply (b0 b1 b2 b3 : Byte)
  deriving DecidableEq, Repr

/-- Whether the row is a request, as against a reply. -/
def Instr.isRequest : Instr → Bool
  | .setLimitReply _ => false
  | .getVariableReply _ _ => false
  | .getFirmwareReply _ _ _ _ => false
  | .exitSafeStartA _ => true
  | .exitSafeStartB => true
  | .motorForwardA _ _ => true
  | .motorForwardB _ => true
  | .motorReverseA _ _ => true
  | .motorReverseB _ => true
  | .motorForward7BitA _ _ => true
  | .motorForward7BitB _ => true
  | .motorReverse7BitA _ _ => true
  | .motorReverse7BitB _ => true
  | .brakeA _ _ => true
  | .brakeB _ => true
  | .stopA _ => true
  | .stopB => true
  | .setLimitA _ _ _ => true
  | .setLimitB _ _ => true
  | .getVariableA _ _ => true
  | .getVariableB _ => true
  | .getFirmwareA _ => true
  | .getFirmwareB => true

/-- The command a row belongs to (opcode_table.json, `cmd_code`). -/
def Instr.command : Instr → Command
  | .exitSafeStartA _ => .exitSafeStart
  | .exitSafeStartB => .exitSafeStart
  | .motorForwardA _ _ => .motorForward
  | .motorForwardB _ => .motorForward
  | .motorReverseA _ _ => .motorReverse
  | .motorReverseB _ => .motorReverse
  | .motorForward7BitA _ _ => .motorForward7Bit
  | .motorForward7BitB _ => .motorForward7Bit
  | .motorReverse7BitA _ _ => .motorReverse7Bit
  | .motorReverse7BitB _ => .motorReverse7Bit
  | .brakeA _ _ => .brake
  | .brakeB _ => .brake
  | .stopA _ => .stop
  | .stopB => .stop
  | .setLimitA _ _ _ => .setLimit
  | .setLimitB _ _ => .setLimit
  | .getVariableA _ _ => .getVariable
  | .getVariableB _ => .getVariable
  | .getFirmwareA _ => .getFirmware
  | .getFirmwareB => .getFirmware
  | .setLimitReply _ => .setLimit
  | .getVariableReply _ _ => .getVariable
  | .getFirmwareReply _ _ _ _ => .getFirmware

end Sys2Proof
end

