-- ==== Sys2Proof/WellFormed.lean ====
section
/-! DEFINITION. Which instructions have an encoding (spec/30_encoding.md R84, R93). Admitted configurations (R90) are in Decode.lean, beside the tables they speak of. -/

namespace Sys2Proof

/-- The device id of an Addressed frame is 0..127 (spec/00_scope.md R7). -/
def deviceInRange (dev : Byte) : Bool := decide (dev.toNat ≤ devMax)
/-- A 13-bit command's pwm is 0..3200. -/
def pwm13InRange (pwm : Half) : Bool := decide (pwm.toNat ≤ pwm13Max)
/-- A 7-bit command's pwm is 0..127. -/
def pwm7InRange (pwm : Half) : Bool := decide (pwm.toNat ≤ pwm7Max)
/-- A brake duty is 0..32 (90_conflicts.md C2). -/
def dutyInRange (duty : Half) : Bool := decide (duty.toNat ≤ dutyMax)
/-- A limit value is 0..16383. -/
def limitValueInRange (value : Half) : Bool := decide (value.toNat ≤ limitValueMax)

/-- An instruction is well formed when it has an encoding under the configuration: its operands are in range, its
identifier is a member of its enumeration, and it is no Broadcast row of a response-bearing command (R93). Every reply of
the right length is a reply (R96). -/
def Instr.wellFormed (cfg : Config) : Instr → Bool
  | .exitSafeStartA dev => deviceInRange dev
  | .exitSafeStartB => true
  | .motorForwardA dev pwm => deviceInRange dev && pwm13InRange pwm
  | .motorForwardB pwm => pwm13InRange pwm
  | .motorReverseA dev pwm => deviceInRange dev && pwm13InRange pwm
  | .motorReverseB pwm => pwm13InRange pwm
  | .motorForward7BitA dev pwm => deviceInRange dev && pwm7InRange pwm
  | .motorForward7BitB pwm => pwm7InRange pwm
  | .motorReverse7BitA dev pwm => deviceInRange dev && pwm7InRange pwm
  | .motorReverse7BitB pwm => pwm7InRange pwm
  | .brakeA dev duty => deviceInRange dev && dutyInRange duty
  | .brakeB duty => dutyInRange duty
  | .stopA dev => deviceInRange dev
  | .stopB => true
  | .setLimitA dev limitId value => deviceInRange dev && cfg.limitIdValid limitId && limitValueInRange value
  | .setLimitB _ _ => false
  | .getVariableA dev variableId => deviceInRange dev && cfg.varIdValid variableId
  | .getVariableB _ => false
  | .getFirmwareA dev => deviceInRange dev
  | .getFirmwareB => false
  | .setLimitReply _ => true
  | .getVariableReply _ _ => true
  | .getFirmwareReply _ _ _ _ => true

end Sys2Proof
end

