-- ==== Sys2Proof/Decode.lean ====
section
/-! DEFINITION. The encodings of spec/30_encoding.md: the opcode tables' lookup, the listener's reading of a frame (R97), the reading of a
reply (R96), and the encoder written from the bit tables of R81, R82, R84. All are total and reject by name. -/

namespace Sys2Proof

/-! ### Opcode tables and configurations -/

/-- The ten commands in the order of R86. -/
def Command.all : List Command :=
  [.exitSafeStart, .motorForward, .motorReverse, .motorForward7Bit, .motorReverse7Bit,
   .brake, .stop, .setLimit, .getVariable, .getFirmware]

/-- The opcode of a command, read as stored (R89, 40_frame_builder.md R122). -/
def OpcodeTable.get (t : OpcodeTable) : Command → Byte
  | .exitSafeStart => t.exitSafeStart
  | .motorForward => t.motorForward
  | .motorReverse => t.motorReverse
  | .motorForward7Bit => t.motorForward7Bit
  | .motorReverse7Bit => t.motorReverse7Bit
  | .brake => t.brake
  | .stop => t.stop
  | .setLimit => t.setLimit
  | .getVariable => t.getVariable
  | .getFirmware => t.getFirmware

/-- The command an opcode stands for. Where two commands share an opcode, the first in the order of R86 (log 21). -/
def OpcodeTable.find (t : OpcodeTable) (op : Byte) : Option Command :=
  Command.all.find? (fun c => decide (t.get c = op))

/-- R90: the conditions under which a configuration is admitted. -/
structure Config.Admitted (cfg : Config) : Prop where
  /-- R90(a), Addressed opcodes. -/
  headerNotInA : ∀ c, cfg.opcA.get c ≠ header
  /-- R90(a), Broadcast opcodes. -/
  headerNotInB : ∀ c, cfg.opcB.get c ≠ header
  /-- R90(b). -/
  tablesDisjoint : ∀ c c', cfg.opcA.get c ≠ cfg.opcB.get c'
  /-- R90(c), limit ids. -/
  limitIdsBounded : ∀ id, cfg.limitIdValid id = true → id.toNat ≤ idMax
  /-- R90(c), variable ids. -/
  varIdsBounded : ∀ id, cfg.varIdValid id = true → id.toNat ≤ idMax

/-- R90: the named property a claim may take as a premise. It is not a condition of admission. -/
structure Config.OpcodesInjective (cfg : Config) : Prop where
  injectiveA : ∀ c c', cfg.opcA.get c = cfg.opcA.get c' → c = c'
  injectiveB : ∀ c c', cfg.opcB.get c = cfg.opcB.get c' → c = c'

/-- PRESUMED (log 1): the profile P-GK of R91, the one concrete configuration the spec gives; it calls it general knowledge, so no statement may
rest on it. Its limit ids are 0..11. DESIGN CHOICE (log 2): P-GK gives no variable ids; every id R90(c) allows is valid. -/
def Config.pgk : Config where
  opcA :=
    { exitSafeStart := 0x03, motorForward := 0x05, motorReverse := 0x06, motorForward7Bit := 0x09
      motorReverse7Bit := 0x0A, brake := 0x12, stop := 0x60, setLimit := 0x22, getVariable := 0x21
      getFirmware := 0x42 }
  opcB :=
    { exitSafeStart := 0x83, motorForward := 0x85, motorReverse := 0x86, motorForward7Bit := 0x89
      motorReverse7Bit := 0x8A, brake := 0x92, stop := 0xE0, setLimit := 0xA2, getVariable := 0xA1
      getFirmware := 0xC2 }
  limitIds := (List.range 12).map (BitVec.ofNat 8)
  varIds := (List.range 128).map (BitVec.ofNat 8)

/-! ### Decoding -/

/-- Why bytes are no instruction. -/
inductive Reject
  /-- The bytes end before the row's last byte. -/
  | truncated
  /-- The first byte is neither HEADER nor an opcode of OPC_B (R97). -/
  | notAFrame (first : Byte)
  /-- The third byte of an Addressed frame is no opcode of OPC_A (R81). -/
  | unknownOpcode (op : Byte)
  /-- The Broadcast opcode of a response-bearing command, which never appears on the wire (R93). -/
  | broadcastResponse
  /-- A bit that R81 or R84 fixes at 0 is 1. -/
  | reservedBit
  /-- An operand the encoder never emits: a pwm, a duty or an identifier outside its range (R84, R93). -/
  | operandRange
  /-- Bytes are left over after a whole row. -/
  | trailing
  /-- The command has no reply format (R96). -/
  | noReplyFormat
  deriving DecidableEq, Repr

/-- The result of reading an instruction at the head of a byte stream: it and the bytes after it. -/
abbrev Read := Except Reject (Instr × List Byte)

/-- Whether bit 7 is 0, as in every data byte (R85). -/
def isDataByte (b : Byte) : Bool := decide (b.extractLsb' 7 1 = 0)

/-- PW13, second byte `0hhhhhhh` above first byte `000lllll` (R84). -/
def readPW13 (b0 b1 : Byte) : Half := (0#4 ++ b1.extractLsb' 0 7) ++ b0.extractLsb' 0 5

/-- A value of one data byte: PW7 `0vvvvvvv`, PD `00dddddd` (R84). -/
def readByte (b : Byte) : Half := 0#8 ++ b

/-- PL, third byte `0hhhhhhh` above second byte `0lllllll` (R84). -/
def readPL (b1 b2 : Byte) : Half := (0#2 ++ b2.extractLsb' 0 7) ++ b1.extractLsb' 0 7

/-- Accepts an instruction that the encoder emits, and rejects the others by name (R84, R93). -/
def accept (cfg : Config) (i : Instr) (rest : List Byte) : Read :=
  if i.wellFormed cfg then .ok (i, rest) else .error .operandRange

/-- The payload of a PW13 command (R84). -/
def readPW13Payload (cfg : Config) (mk : Half → Instr) : List Byte → Read
  | b0 :: b1 :: rest =>
    if b0.extractLsb' 5 3 = 0 ∧ isDataByte b1 then accept cfg (mk (readPW13 b0 b1)) rest else .error .reservedBit
  | _ => .error .truncated

/-- The payload of a PW7 command (R84). -/
def readPW7Payload (cfg : Config) (mk : Half → Instr) : List Byte → Read
  | b0 :: rest => if isDataByte b0 then accept cfg (mk (readByte b0)) rest else .error .reservedBit
  | _ => .error .truncated

/-- The payload of Brake (R84). -/
def readPDPayload (cfg : Config) (mk : Half → Instr) : List Byte → Read
  | b0 :: rest => if b0.extractLsb' 6 2 = 0 then accept cfg (mk (readByte b0)) rest else .error .reservedBit
  | _ => .error .truncated

/-- The payload of SetLimit (R84). -/
def readPLPayload (cfg : Config) (mk : Byte → Half → Instr) : List Byte → Read
  | b0 :: b1 :: b2 :: rest =>
    if isDataByte b0 ∧ isDataByte b1 ∧ isDataByte b2 then accept cfg (mk b0 (readPL b1 b2)) rest else .error .reservedBit
  | _ => .error .truncated

/-- The payload of GetVariable (R84). -/
def readPVPayload (cfg : Config) (mk : Byte → Instr) : List Byte → Read
  | b0 :: rest => if isDataByte b0 then accept cfg (mk b0) rest else .error .reservedBit
  | _ => .error .truncated

/-- The payload after an Addressed opcode (R81, R84, R87). -/
def readAddressedPayload (cfg : Config) (dev : Byte) (c : Command) (bytes : List Byte) : Read :=
  match c with
  | .exitSafeStart => accept cfg (.exitSafeStartA dev) bytes
  | .motorForward => readPW13Payload cfg (.motorForwardA dev) bytes
  | .motorReverse => readPW13Payload cfg (.motorReverseA dev) bytes
  | .motorForward7Bit => readPW7Payload cfg (.motorForward7BitA dev) bytes
  | .motorReverse7Bit => readPW7Payload cfg (.motorReverse7BitA dev) bytes
  | .brake => readPDPayload cfg (.brakeA dev) bytes
  | .stop => accept cfg (.stopA dev) bytes
  | .setLimit => readPLPayload cfg (.setLimitA dev) bytes
  | .getVariable => readPVPayload cfg (.getVariableA dev) bytes
  | .getFirmware => accept cfg (.getFirmwareA dev) bytes

/-- The payload after a Broadcast opcode (R82, R84, R93). -/
def readBroadcastPayload (cfg : Config) (c : Command) (bytes : List Byte) : Read :=
  match c with
  | .exitSafeStart => accept cfg .exitSafeStartB bytes
  | .motorForward => readPW13Payload cfg .motorForwardB bytes
  | .motorReverse => readPW13Payload cfg .motorReverseB bytes
  | .motorForward7Bit => readPW7Payload cfg .motorForward7BitB bytes
  | .motorReverse7Bit => readPW7Payload cfg .motorReverse7BitB bytes
  | .brake => readPDPayload cfg .brakeB bytes
  | .stop => accept cfg .stopB bytes
  | .setLimit => .error .broadcastResponse
  | .getVariable => .error .broadcastResponse
  | .getFirmware => .error .broadcastResponse

/-- An Addressed frame after its HEADER: device id, opcode, payload (R81). -/
def readAddressed (cfg : Config) : List Byte → Read
  | dev :: op :: rest =>
    if isDataByte dev then
      match cfg.opcA.find op with
      | some c => readAddressedPayload cfg dev c rest
      | none => .error (.unknownOpcode op)
    else .error .reservedBit
  | _ => .error .truncated

/-- The listener's reading of one frame at the head of a stream: HEADER means Addressed, a Broadcast opcode Broadcast (R97). -/
def decodeFrame (cfg : Config) : List Byte → Read
  | [] => .error .truncated
  | b :: rest =>
    if b = header then readAddressed cfg rest
    else
      match cfg.opcB.find b with
      | some c => readBroadcastPayload cfg c rest
      | none => .error (.notAFrame b)

/-- The reading of one reply to a command at the head of the inbound stream (R96). -/
def decodeReply (c : Command) (bytes : List Byte) : Read :=
  match c with
  | .setLimit =>
    match bytes with
    | b0 :: rest => .ok (.setLimitReply b0, rest)
    | _ => .error .truncated
  | .getVariable =>
    match bytes with
    | b0 :: b1 :: rest => .ok (.getVariableReply b0 b1, rest)
    | _ => .error .truncated
  | .getFirmware =>
    match bytes with
    | b0 :: b1 :: b2 :: b3 :: rest => .ok (.getFirmwareReply b0 b1 b2 b3, rest)
    | _ => .error .truncated
  | .exitSafeStart => .error .noReplyFormat
  | .motorForward => .error .noReplyFormat
  | .motorReverse => .error .noReplyFormat
  | .motorForward7Bit => .error .noReplyFormat
  | .motorReverse7Bit => .error .noReplyFormat
  | .brake => .error .noReplyFormat
  | .stop => .error .noReplyFormat

/-- A reading that must use every byte. -/
def whole : Read → Except Reject Instr
  | .ok (i, []) => .ok i
  | .ok (_, _ :: _) => .error .trailing
  | .error r => .error r

/-- The bytes of one row of the opcode table: a frame, or, where they are no frame, the reply whose length they have.
DESIGN CHOICE (log 9): a reply carries no mark of its own (R96), and the spec never mixes the two streams. -/
def decodeWord (cfg : Config) (bytes : List Byte) : Except Reject Instr :=
  match whole (decodeFrame cfg bytes) with
  | .ok i => .ok i
  | .error (.notAFrame b) =>
    match bytes with
    | [_] => whole (decodeReply .setLimit bytes)
    | [_, _] => whole (decodeReply .getVariable bytes)
    | [_, _, _, _] => whole (decodeReply .getFirmware bytes)
    | _ => .error (.notAFrame b)
  | .error r => .error r

/-! ### Encoding -/

/-- PW13: `000lllll`, `0hhhhhhh` (R84). -/
def encodePW13 (pwm : Half) : List Byte := [0#3 ++ pwm.extractLsb' 0 5, 0#1 ++ pwm.extractLsb' 5 7]

/-- PW7: `0vvvvvvv` (R84). -/
def encodePW7 (pwm : Half) : List Byte := [0#1 ++ pwm.extractLsb' 0 7]

/-- PD: `00dddddd` (R84). -/
def encodePD (duty : Half) : List Byte := [0#2 ++ duty.extractLsb' 0 6]

/-- PL: `0iiiiiii`, `0lllllll`, `0hhhhhhh` (R84). -/
def encodePL (limitId : Byte) (value : Half) : List Byte :=
  [0#1 ++ limitId.extractLsb' 0 7, 0#1 ++ value.extractLsb' 0 7, 0#1 ++ value.extractLsb' 7 7]

/-- PV: `0iiiiiii` (R84). -/
def encodePV (variableId : Byte) : List Byte := [0#1 ++ variableId.extractLsb' 0 7]

/-- The Addressed format: `10101010`, `0ddddddd`, the opcode, the payload (R81). -/
def encodeAddressed (cfg : Config) (c : Command) (dev : Byte) (payload : List Byte) : List Byte :=
  header :: (0#1 ++ dev.extractLsb' 0 7) :: cfg.opcA.get c :: payload

/-- The Broadcast format: the opcode, the payload (R82). -/
def encodeBroadcast (cfg : Config) (c : Command) (payload : List Byte) : List Byte := cfg.opcB.get c :: payload

/-- The words of a well-formed instruction. The rejected rows have none (R93). -/
def encode (cfg : Config) : Instr → List Byte
  | .exitSafeStartA dev => encodeAddressed cfg .exitSafeStart dev []
  | .exitSafeStartB => encodeBroadcast cfg .exitSafeStart []
  | .motorForwardA dev pwm => encodeAddressed cfg .motorForward dev (encodePW13 pwm)
  | .motorForwardB pwm => encodeBroadcast cfg .motorForward (encodePW13 pwm)
  | .motorReverseA dev pwm => encodeAddressed cfg .motorReverse dev (encodePW13 pwm)
  | .motorReverseB pwm => encodeBroadcast cfg .motorReverse (encodePW13 pwm)
  | .motorForward7BitA dev pwm => encodeAddressed cfg .motorForward7Bit dev (encodePW7 pwm)
  | .motorForward7BitB pwm => encodeBroadcast cfg .motorForward7Bit (encodePW7 pwm)
  | .motorReverse7BitA dev pwm => encodeAddressed cfg .motorReverse7Bit dev (encodePW7 pwm)
  | .motorReverse7BitB pwm => encodeBroadcast cfg .motorReverse7Bit (encodePW7 pwm)
  | .brakeA dev duty => encodeAddressed cfg .brake dev (encodePD duty)
  | .brakeB duty => encodeBroadcast cfg .brake (encodePD duty)
  | .stopA dev => encodeAddressed cfg .stop dev []
  | .stopB => encodeBroadcast cfg .stop []
  | .setLimitA dev limitId value => encodeAddressed cfg .setLimit dev (encodePL limitId value)
  | .setLimitB _ _ => []
  | .getVariableA dev variableId => encodeAddressed cfg .getVariable dev (encodePV variableId)
  | .getVariableB _ => []
  | .getFirmwareA dev => encodeAddressed cfg .getFirmware dev []
  | .getFirmwareB => []
  | .setLimitReply b0 => [b0]
  | .getVariableReply b0 b1 => [b0, b1]
  | .getFirmwareReply b0 b1 b2 b3 => [b0, b1, b2, b3]

/-! ### The opcode table's words -/

/-- The `n` bytes of a row's word, first byte first. DEDUCED (log 8): spec/opcode_table.json numbers a row's bits as one number whose last byte is
bits 7..0 (`fixed` of ExitSafeStart.A puts HEADER at bits 23..16), so the first byte is the most significant. -/
def bytesOfWord : Nat → Nat → List Byte
  | 0, _ => []
  | n + 1, w => bytesOfWord n (w / 256) ++ [BitVec.ofNat 8 w]

/-- The instruction the decoder reads from a row's word, under the configuration of State.reset. -/
def decodeTableWord (nbits w : Nat) : Option Instr :=
  match decodeWord Config.pgk (bytesOfWord (nbits / 8) w) with
  | .ok i => some i
  | .error _ => none

end Sys2Proof
end

