-- ==== Sys2Proof/Machine/State.lean ====
section
/-! DEFINITION. Everything spec/10_state.md gives the block, as plain data, and the state after power-on reset (R37). -/

namespace Sys2Proof.Machine

/-- The six names of the model fault mark (60_exceptions.md R232). -/
inductive FaultName
  /-- F_BUSY: a request while an exchange is in flight. -/
  | busy
  /-- F_NOT_OPEN: a request with the transport not open. -/
  | notOpen
  /-- F_TRANSPORT_CONTRACT: the transport reports more bytes than asked. -/
  | transportContract
  /-- F_NO_DECODE_PATH: a decode of a command without a reply, or of a reserved code. -/
  | noDecodePath
  /-- F_SHORT_INPUT: a decode with fewer bytes than RLEN. -/
  | shortInput
  /-- F_NO_VALUE: a read of a port or field that holds no value. -/
  | noValue
  deriving DecidableEq, Repr

/-- FAULT, a set of fault names (10_state.md R32). One Bool a name, so equal sets are equal data. -/
structure FaultSet where
  busy              : Bool
  notOpen           : Bool
  transportContract : Bool
  noDecodePath      : Bool
  shortInput        : Bool
  noValue           : Bool
  deriving DecidableEq, Repr

/-- PHASE (10_state.md R27). The code 3 is never held, so it has no constructor. -/
inductive Phase
  /-- IDLE (0): between exchanges. -/
  | idle
  /-- WRITING (1): from the issue of TxWrite to its completion. -/
  | writing
  /-- READING (2): from the issue of RxRead to its completion. -/
  | reading
  deriving DecidableEq, Repr

/-- The encoder's output ports after an evaluation (10_state.md R22). FRAME bytes at FLEN or above hold no value, so
`frame` lists the bytes below FLEN only. -/
structure EncOut where
  /-- FRAME[0 .. FLEN-1] -/
  frame : List Byte
  /-- FLEN -/
  flen  : BitVec 3
  /-- RLENO -/
  rleno : BitVec 3
  /-- VERR (R23) -/
  verr  : BitVec 9
  deriving DecidableEq, Repr

/-- RBUF[0..3] (10_state.md R25); `b0` was received first. -/
structure ReplyBuffer where
  b0 : Byte
  b1 : Byte
  b2 : Byte
  b3 : Byte
  deriving DecidableEq, Repr

/-- The decoder's input ports (10_state.md R25). -/
structure DecIn where
  /-- DCMD -/
  dcmd : BitVec 4
  /-- RBUF -/
  rbuf : ReplyBuffer
  /-- RCNT -/
  rcnt : BitVec 3
  deriving DecidableEq, Repr

/-- The decoder's outputs: those of the one path taken; the others hold no value (10_state.md R26). -/
inductive DecResult
  /-- LSTAT -/
  | limitStatus (lstat : BitVec 2)
  /-- VRAW -/
  | raw16 (vraw : Half)
  /-- FW_PID, FW_MINOR, FW_MAJOR -/
  | firmware (productId : Half) (minor major : Byte)
  deriving DecidableEq, Repr

/-- CUR, the exchange latch (10_state.md R28). -/
structure Latch where
  cmd   : BitVec 4
  frame : List Byte
  flen  : Nat
  rlen  : Nat
  deriving DecidableEq, Repr

/-- OUTCOME: a code and its data (10_state.md R29, 60_exceptions.md R220). -/
inductive ExchangeOutcome
  /-- OK (0): nothing, or the typed decode result. -/
  | ok (result : Option DecResult)
  /-- VALIDATION_ERROR (1): the VERR mask. -/
  | validationError (verr : BitVec 9)
  /-- WRITE_FAILURE (2): the count written. -/
  | writeFailure (w : Nat)
  /-- READ_SHORTFALL (3): the count read. -/
  | readShortfall (c : Nat)
  deriving DecidableEq, Repr

/-- A transport call, as an observer sees it (00_scope.md R14). -/
inductive TransportCall
  /-- TxWrite(frame, n) -/
  | txWrite (frame : List Byte) (n : Nat)
  /-- RxRead(n, timeout) -/
  | rxRead (n : Nat) (timeout : Nat)
  deriving DecidableEq, Repr

/-- The ports and fields the caller reads (10_state.md R33). -/
inductive Port
  /-- FRAME[i] -/
  | frame (i : Nat)
  | flen
  | rleno
  | verr
  | lstat
  | vraw
  | fwPid
  | fwMinor
  | fwMajor
  | outcome
  deriving DecidableEq, Repr

/-- What a read of a port obtains. -/
inductive PortValue
  | bits (n : Nat)
  | outcome (o : ExchangeOutcome)
  deriving DecidableEq, Repr

/-- One step of an agent (42_exchange_sequencer.md R190, R205; 00_scope.md R4). -/
inductive Event
  /-- The caller's `req(r, TIMEOUT)`, on the encoder's input ports, reserved codes too (R190, R191). -/
  | req (r : Req) (timeout : Nat)
  /-- A call of the operation surface, which names one row of the opcode table (30_encoding.md R99), or a reply row for the decoder alone (log 7). -/
  | row (i : Instr) (timeout : Nat)
  /-- The transport's `wdone(w)` (R194). -/
  | wdone (w : Nat)
  /-- The transport's `rdone(c, bytes)` with exactly c bytes, so c is the list's length (R199; log 14). -/
  | rdone (bytes : List Byte)
  /-- The caller's `open` (R205). -/
  | openTransport
  /-- The caller's `close` (R198). -/
  | closeTransport
  /-- An encoder evaluation alone (R4, 70_reset_and_hazards.md R253, R255). -/
  | evalEncoder (r : Req)
  /-- A decoder evaluation alone (R4, R253, R255). -/
  | evalDecoder (d : DecIn)
  /-- The caller reads a port (10_state.md R33). -/
  | read (p : Port)
  /-- Power-on reset (70_reset_and_hazards.md R250). -/
  | powerOn
  deriving DecidableEq, Repr

/-- The state of one sequencer instance and its three combinational units (10_state.md). `none` in `enc`, `dec`, `cur`,
`curTimeout` and `outcome` is the spec's own "no value". -/
structure State where
  /-- the constant tables OPC_A, OPC_B and the predicates (R24) -/
  cfg        : Config
  /-- CMD, MODE, DEV, PVAL, PID (R21) -/
  encIn      : Req
  /-- TIMEOUT, the caller's argument (00_scope.md R7) -/
  timeoutIn  : Nat
  /-- FRAME, FLEN, RLENO, VERR (R22) -/
  enc        : Option EncOut
  /-- DCMD, RBUF, RCNT (R25) -/
  decIn      : DecIn
  /-- LSTAT, VRAW, FW_PID, FW_MINOR, FW_MAJOR as the last evaluation left them (R26); what the ports hold is `portValue` (R264, log 11) -/
  dec        : Option DecResult
  /-- PHASE (R27) -/
  phase      : Phase
  /-- CUR (R28) -/
  cur        : Option Latch
  /-- the TIMEOUT of the exchange in flight (42_exchange_sequencer.md R197; log 13) -/
  curTimeout : Option Nat
  /-- OUTCOME (R29) -/
  outcome    : Option ExchangeOutcome
  /-- OPEN (R30) -/
  isOpen     : Bool
  /-- STREAM_SUSPECT (R31) -/
  suspect    : Bool
  /-- FAULT (R32) -/
  fault      : FaultSet
  /-- observation: the transport calls made, newest first (00_scope.md R14; log 15) -/
  calls      : List TransportCall
  /-- observation: the bytes reported as handed over, in order (20_memory.md R59; log 15) -/
  wire       : List Byte
  /-- the value the caller's last read obtained (log 17) -/
  readBack   : Option PortValue
  /-- the environment's schedule, oldest event first (log 5) -/
  inputs     : List Event
  deriving DecidableEq, Repr

/-- Why the machine stops: it is stuck, no transition is listed (42_exchange_sequencer.md R205). Every one is SAFE: a claim about a
run that gets stuck is unprovable, never false. -/
inductive Fault
  /-- `step`: no agent presents an event, so nothing happens (70_reset_and_hazards.md R264). Safe. -/
  | noEvent
  /-- `wdone`, `rdone`: a completion outside its phase has no step (R205, U18). Safe. -/
  | completionHasNoStep
  /-- `open`: an open while OPEN = 1 is not a step (R205). Safe. -/
  | openHasNoStep
  /-- `close`: a close while OPEN = 0 is not listed (R205). Safe. -/
  | closeHasNoStep
  deriving DecidableEq, Repr

/-- Why a step is refused. -/
inductive Refusal
  /-- `exec`: an instruction without a meaning. No arm raises it. Safe. -/
  | notModelled (mnemonic : String)
  deriving DecidableEq, Repr

/-- What every meaning answers. -/
abbrev Result := Host.Outcome State Fault Refusal

/-- The empty FAULT set. -/
def FaultSet.empty : FaultSet :=
  { busy := false, notOpen := false, transportContract := false, noDecodePath := false, shortInput := false, noValue := false }

/-- The machine right after power-on reset (10_state.md R37, 70_reset_and_hazards.md R250). The configuration is P-GK (PRESUMED, log 1; DESIGN CHOICE, log 2);
the input ports, for which R37 gives no value, hold zero (DESIGN CHOICE, log 3); the model's own fields are empty. -/
def State.reset : State where
  cfg := Config.pgk
  encIn := { cmd := 0, mode := .addressed, dev := 0, pval := 0, pid := 0 }
  timeoutIn := 0
  enc := none
  decIn := { dcmd := 0, rbuf := { b0 := 0, b1 := 0, b2 := 0, b3 := 0 }, rcnt := 0 }
  dec := none
  phase := .idle
  cur := none
  curTimeout := none
  outcome := none
  isOpen := false
  suspect := false
  fault := .empty
  calls := []
  wire := []
  readBack := none
  inputs := []

end Sys2Proof.Machine
end

