-- ==== Sys2Proof/Machine/Operands.lean ====
section
/-! DEFINITION. The Multiplexer's tables and every operand form: command codes (spec/30_encoding.md R86), PLEN and RLEN (R87), the prefix and opcode
multiplexers (40_frame_builder.md R121, R122), the payload fields (R92, R129), the reply fields (41_response_decoder.md R174-R177). -/

namespace Sys2Proof

/-! ### Command codes and length tables -/

/-- The command of a code on CMD or DCMD; 10..15 are reserved (R86). -/
def Command.ofCode (code : BitVec 4) : Option Command :=
  match code.toNat with
  | 0 => some .exitSafeStart
  | 1 => some .motorForward
  | 2 => some .motorReverse
  | 3 => some .motorForward7Bit
  | 4 => some .motorReverse7Bit
  | 5 => some .brake
  | 6 => some .stop
  | 7 => some .setLimit
  | 8 => some .getVariable
  | 9 => some .getFirmware
  | _ => none

/-- The code of a command (R86). -/
def Command.code : Command → BitVec 4
  | .exitSafeStart => 0
  | .motorForward => 1
  | .motorReverse => 2
  | .motorForward7Bit => 3
  | .motorReverse7Bit => 4
  | .brake => 5
  | .stop => 6
  | .setLimit => 7
  | .getVariable => 8
  | .getFirmware => 9

/-- PLEN (R87). -/
def Command.plen : Command → Nat
  | .exitSafeStart => 0
  | .motorForward => 2
  | .motorReverse => 2
  | .motorForward7Bit => 1
  | .motorReverse7Bit => 1
  | .brake => 1
  | .stop => 0
  | .setLimit => 3
  | .getVariable => 1
  | .getFirmware => 0

/-- RLEN (R87). -/
def Command.rlen : Command → Nat
  | .exitSafeStart => 0
  | .motorForward => 0
  | .motorReverse => 0
  | .motorForward7Bit => 0
  | .motorReverse7Bit => 0
  | .brake => 0
  | .stop => 0
  | .setLimit => 1
  | .getVariable => 2
  | .getFirmware => 4

/-- `(CMD <= 9) ? RLEN[CMD] : 0` (R123). -/
def rlenOfCode (code : BitVec 4) : Nat :=
  match Command.ofCode code with
  | some c => c.rlen
  | none => 0

/-- PRE(mode), the number of bytes up to and with the opcode (30_encoding.md R83). -/
def Mode.pre : Mode → Nat
  | .addressed => 3
  | .broadcast => 1

/-- The row of a request; unused inputs are dropped (R127), and a reserved code has none. -/
def Instr.ofReq (r : Req) : Option Instr :=
  match Command.ofCode r.cmd, r.mode with
  | some .exitSafeStart, .addressed => some (.exitSafeStartA r.dev)
  | some .exitSafeStart, .broadcast => some .exitSafeStartB
  | some .motorForward, .addressed => some (.motorForwardA r.dev r.pval)
  | some .motorForward, .broadcast => some (.motorForwardB r.pval)
  | some .motorReverse, .addressed => some (.motorReverseA r.dev r.pval)
  | some .motorReverse, .broadcast => some (.motorReverseB r.pval)
  | some .motorForward7Bit, .addressed => some (.motorForward7BitA r.dev r.pval)
  | some .motorForward7Bit, .broadcast => some (.motorForward7BitB r.pval)
  | some .motorReverse7Bit, .addressed => some (.motorReverse7BitA r.dev r.pval)
  | some .motorReverse7Bit, .broadcast => some (.motorReverse7BitB r.pval)
  | some .brake, .addressed => some (.brakeA r.dev r.pval)
  | some .brake, .broadcast => some (.brakeB r.pval)
  | some .stop, .addressed => some (.stopA r.dev)
  | some .stop, .broadcast => some .stopB
  | some .setLimit, .addressed => some (.setLimitA r.dev r.pid r.pval)
  | some .setLimit, .broadcast => some (.setLimitB r.pid r.pval)
  | some .getVariable, .addressed => some (.getVariableA r.dev r.pid)
  | some .getVariable, .broadcast => some (.getVariableB r.pid)
  | some .getFirmware, .addressed => some (.getFirmwareA r.dev)
  | some .getFirmware, .broadcast => some .getFirmwareB
  | none, _ => none

namespace Machine

/-! ### Frame fields -/

/-- `zext_8(v[lo+n-1 : lo])` (00_scope.md R9). -/
def field {w : Nat} (v : BitVec w) (lo n : Nat) : Byte := (v.extractLsb' lo n).setWidth 8

/-- The prefix multiplexer (40_frame_builder.md R121). -/
def framePrefix (mode : Mode) (dev : Byte) : List Byte :=
  match mode with
  | .addressed => [header, field dev 0 7]
  | .broadcast => []

/-- The opcode multiplexer: a lookup (40_frame_builder.md R122). -/
def opcode (cfg : Config) (mode : Mode) (c : Command) : Byte :=
  match mode with
  | .addressed => cfg.opcA.get c
  | .broadcast => cfg.opcB.get c

/-- P0: no payload (R84). -/
def payloadP0 : List Byte := []
/-- PW13: low 5 bits of pwm, then the high bits (20_memory.md R52, R131). -/
def payloadPW13 (pval : Half) : List Byte := [field pval 0 5, field pval 5 7]
/-- PW7: the pwm (R133). -/
def payloadPW7 (pval : Half) : List Byte := [field pval 0 7]
/-- PD: the duty (R135). -/
def payloadPD (pval : Half) : List Byte := [field pval 0 6]
/-- PL: the limit id, then the low and the high 7 bits of the value (R52, R137). -/
def payloadPL (pid : Byte) (pval : Half) : List Byte := [field pid 0 7, field pval 0 7, field pval 7 7]
/-- PV: the variable id (R138). -/
def payloadPV (pid : Byte) : List Byte := [field pid 0 7]

/-- The payload of a command (40_frame_builder.md R129, R130-R139). -/
def payload (c : Command) (pval : Half) (pid : Byte) : List Byte :=
  match c with
  | .exitSafeStart => payloadP0
  | .motorForward => payloadPW13 pval
  | .motorReverse => payloadPW13 pval
  | .motorForward7Bit => payloadPW7 pval
  | .motorReverse7Bit => payloadPW7 pval
  | .brake => payloadPD pval
  | .stop => payloadP0
  | .setLimit => payloadPL pid pval
  | .getVariable => payloadPV pid
  | .getFirmware => payloadP0

/-! ### Reply fields -/

/-- A little-endian pair: the byte received first is the low byte (20_memory.md R53). -/
def littleEndian (lo hi : Byte) : Half := hi ++ lo

/-- The 2-bit limit-conflict status; the reply's higher bits are ignored (R174; log 27). -/
def limitStatusOf (b : Byte) : BitVec 2 := b.extractLsb' 0 2

/-- RBUF with its first bytes loaded from a reply; the bytes past the reply keep what they held (42_exchange_sequencer.md R200). -/
def ReplyBuffer.load (old : ReplyBuffer) : List Byte → ReplyBuffer
  | [] => old
  | [a] => { old with b0 := a }
  | [a, b] => { old with b0 := a, b1 := b }
  | [a, b, c] => { old with b0 := a, b1 := b, b2 := c }
  | a :: b :: c :: d :: _ => { b0 := a, b1 := b, b2 := c, b3 := d }

/-- The digit a nibble of a packed-BCD byte reads as: 0..9 as they are, a free value otherwise (41_response_decoder.md R177, U8, log 18). -/
def bcdDigit (nibble : BitVec 4) : Nat := if nibble.toNat ≤ 9 then nibble.toNat else Config.undefinedDigit nibble

/-- The tens and units digits of a packed-BCD byte, its two-character text form (R177). -/
def bcdDigits (b : Byte) : List Nat := [bcdDigit (b.extractLsb' 4 4), bcdDigit (b.extractLsb' 0 4)]

/-- The decimal value of a packed-BCD byte, `10*b[7:4] + b[3:0]` (R177). The decoder outputs the byte itself. -/
def bcdDecimal (b : Byte) : Nat := 10 * bcdDigit (b.extractLsb' 4 4) + bcdDigit (b.extractLsb' 0 4)

/-- PHASE as its 2-bit code (10_state.md R27). -/
def Phase.code : Phase → BitVec 2
  | .idle => 0
  | .writing => 1
  | .reading => 2

/-- MODE as its 1-bit code (10_state.md R21). -/
def modeCode : Mode → BitVec 1
  | .addressed => 0
  | .broadcast => 1

/-- The numeric code of an outcome (60_exceptions.md R220). -/
def ExchangeOutcome.code : ExchangeOutcome → Nat
  | .ok _ => 0
  | .validationError _ => 1
  | .writeFailure _ => 2
  | .readShortfall _ => 3

end Machine

end Sys2Proof
end

