-- ==== Sys2Proof/Machine/Flags.lean ====
section
/-! DEFINITION. The block's status flags: the nine VERR bits (spec/10_state.md R23, 40_frame_builder.md R123) and the FAULT set (10_state.md R32). -/

namespace Sys2Proof.Machine

/-- VERR[0] CMD_UNDEF. -/
def cmdUndef (r : Req) : Bool := decide (10 ≤ r.cmd.toNat)
/-- VERR[1] BCAST_RESP. -/
def bcastResp (r : Req) : Bool := decide (r.mode = .broadcast ∧ 0 < rlenOfCode r.cmd)
/-- VERR[2] DEV_RANGE. -/
def devRange (r : Req) : Bool := decide (r.mode = .addressed ∧ devMax < r.dev.toNat)
/-- VERR[3] PWM13_RANGE. -/
def pwm13Range (r : Req) : Bool :=
  decide ((r.cmd = Command.motorForward.code ∨ r.cmd = Command.motorReverse.code) ∧ pwm13Max < r.pval.toNat)
/-- VERR[4] PWM7_RANGE. -/
def pwm7Range (r : Req) : Bool :=
  decide ((r.cmd = Command.motorForward7Bit.code ∨ r.cmd = Command.motorReverse7Bit.code) ∧ pwm7Max < r.pval.toNat)
/-- VERR[5] DUTY_RANGE. -/
def dutyRange (r : Req) : Bool := decide (r.cmd = Command.brake.code ∧ dutyMax < r.pval.toNat)
/-- VERR[6] LVAL_RANGE. -/
def lvalRange (r : Req) : Bool := decide (r.cmd = Command.setLimit.code ∧ limitValueMax < r.pval.toNat)
/-- VERR[7] LID_INVALID. -/
def lidInvalid (cfg : Config) (r : Req) : Bool := decide (r.cmd = Command.setLimit.code ∧ cfg.limitIdValid r.pid = false)
/-- VERR[8] VID_INVALID. -/
def vidInvalid (cfg : Config) (r : Req) : Bool := decide (r.cmd = Command.getVariable.code ∧ cfg.varIdValid r.pid = false)

/-- Nine conditions as a 9-bit mask, the first at bit 0 (10_state.md R23). -/
def verrMask (b0 b1 b2 b3 b4 b5 b6 b7 b8 : Bool) : BitVec 9 :=
  BitVec.ofBoolListLE [b0, b1, b2, b3, b4, b5, b6, b7, b8]

/-- VERR: every violated condition at once; no condition has priority (R123). -/
def verr (cfg : Config) (r : Req) : BitVec 9 :=
  verrMask (cmdUndef r) (bcastResp r) (devRange r) (pwm13Range r) (pwm7Range r) (dutyRange r) (lvalRange r)
    (lidInvalid cfg r) (vidInvalid cfg r)

/-- FAULT with one more name (R32). -/
def FaultSet.insert (f : FaultSet) : FaultName → FaultSet
  | .busy => { f with busy := true }
  | .notOpen => { f with notOpen := true }
  | .transportContract => { f with transportContract := true }
  | .noDecodePath => { f with noDecodePath := true }
  | .shortInput => { f with shortInput := true }
  | .noValue => { f with noValue := true }

/-- Whether FAULT holds a name. -/
def FaultSet.mem (f : FaultSet) : FaultName → Bool
  | .busy => f.busy
  | .notOpen => f.notOpen
  | .transportContract => f.transportContract
  | .noDecodePath => f.noDecodePath
  | .shortInput => f.shortInput
  | .noValue => f.noValue

end Sys2Proof.Machine
end

