-- ==== Sys2Proof/Machine/Ops.lean ====
section
/-! DEFINITION. The operations the meanings share: the encoder and decoder evaluations (spec/40_frame_builder.md R129, 41_response_decoder.md R183), marking a
model fault (60_exceptions.md R232), the sequencer's transitions (42_exchange_sequencer.md R205), a read of a port, and power-on reset. -/

namespace Sys2Proof.Machine

/-! ### Marking a model fault -/

/-- A step that faults adds its name to FAULT and changes nothing else (10_state.md R32, R191). The block has no trap: no
state is saved, no mode changes, and there is no return (60_exceptions.md R237, R238; log 4). -/
def raise (f : FaultName) (s : State) : State := { s with fault := s.fault.insert f }

/-! ### The Frame Encoder -/

/-- `FLEN = PRE(mode) + PLEN[cmd]`, from the static tables (30_encoding.md R83, R88); 0 for a reserved code. -/
def flenOf (r : Req) : Nat :=
  match Command.ofCode r.cmd with
  | some c => r.mode.pre + c.plen
  | none => 0

/-- The whole encoder: `Ok(frame)` or `Fail(verr)` (R129). A whole frame or none (R125, R128). -/
def encodeRequest (cfg : Config) (r : Req) : Except (BitVec 9) (List Byte) :=
  if verr cfg r = 0 then
    match Command.ofCode r.cmd with
    | some c => .ok (framePrefix r.mode r.dev ++ opcode cfg r.mode c :: payload c r.pval r.pid)
    | none => .error (verr cfg r)
  else .error (verr cfg r)

/-- The output ports after an evaluation (10_state.md R22, R129). -/
def encOut (cfg : Config) (r : Req) : EncOut :=
  match encodeRequest cfg r with
  | .ok frame => { frame := frame, flen := BitVec.ofNat 3 (flenOf r), rleno := BitVec.ofNat 3 (rlenOfCode r.cmd), verr := 0 }
  | .error v => { frame := [], flen := 0, rleno := BitVec.ofNat 3 (rlenOfCode r.cmd), verr := v }

/-- An encoder evaluation on driven inputs: it writes the output ports and nothing else (R120). -/
def evalEncoder (r : Req) (s : State) : State := { s with encIn := r, enc := some (encOut s.cfg r) }

/-! ### The Response Decoder -/

/-- The whole decoder (R183): the result of the one path taken, or the fault. -/
def decodeResponse (d : DecIn) : Except FaultName DecResult :=
  match Command.ofCode d.dcmd with
  | none => .error .noDecodePath
  | some c =>
    if c.rlen = 0 then .error .noDecodePath
    else if d.rcnt.toNat < c.rlen then .error .shortInput
    else
      match c with
      | .setLimit => .ok (.limitStatus (limitStatusOf d.rbuf.b0))
      | .getVariable => .ok (.raw16 (littleEndian d.rbuf.b0 d.rbuf.b1))
      | .getFirmware => .ok (.firmware (littleEndian d.rbuf.b0 d.rbuf.b1) d.rbuf.b2 d.rbuf.b3)
      | .exitSafeStart => .error .noDecodePath
      | .motorForward => .error .noDecodePath
      | .motorReverse => .error .noDecodePath
      | .motorForward7Bit => .error .noDecodePath
      | .motorReverse7Bit => .error .noDecodePath
      | .brake => .error .noDecodePath
      | .stop => .error .noDecodePath

/-- The decoder's inputs are driven (R25, R200). -/
def driveDecoder (d : DecIn) (s : State) : State := { s with decIn := d }

/-- The outputs of one decode path are written; the others hold no value (10_state.md R26). -/
def writeDecoded (r : DecResult) (s : State) : State := { s with dec := some r }

/-- A decoder evaluation: it writes the outputs of one path, or it faults and writes no output (R170, R171, R172). -/
def evalDecoder (d : DecIn) (s : State) : State :=
  match decodeResponse d with
  | .ok r => writeDecoded r (driveDecoder d s)
  | .error f => raise f (driveDecoder d s)

/-! ### The Exchange Sequencer -/

/-- The end of an exchange: OUTCOME is written, PHASE is IDLE and CUR holds no value (10_state.md R28, R29, R204). -/
def finish (o : ExchangeOutcome) (s : State) : State :=
  { s with outcome := some o, phase := .idle, cur := none, curTimeout := none }

/-- An invalid request: OUTCOME is VALIDATION_ERROR; PHASE stays IDLE, CUR is not written, no transport call is made (R192). -/
def rejectRequest (v : BitVec 9) (s : State) : State := { s with outcome := some (.validationError v) }

/-- The issue of TxWrite(frame, FLEN): CUR is latched and PHASE becomes WRITING (R193). -/
def issueWrite (r : Req) (frame : List Byte) (s : State) : State :=
  { s with
    cur := some { cmd := r.cmd, frame := frame, flen := flenOf r, rlen := rlenOfCode r.cmd }
    curTimeout := some s.timeoutIn
    phase := .writing
    calls := .txWrite frame (flenOf r) :: s.calls }

/-- A request step (R191-R193): F_BUSY outside IDLE, F_NOT_OPEN with OPEN = 0, else validate and encode. -/
def request (r : Req) (s : State) : Result :=
  match s.phase with
  | .writing => .next (raise .busy s)
  | .reading => .next (raise .busy s)
  | .idle =>
    if s.isOpen then
      match encodeRequest s.cfg r with
      | .error v => .next (rejectRequest v (evalEncoder r s))
      | .ok frame => .next (issueWrite r frame (evalEncoder r s))
    else .next (raise .notOpen s)

/-- The issue of RxRead(CUR.rlen, TIMEOUT) (R197). -/
def issueRead (rlen timeout : Nat) (s : State) : State :=
  { s with phase := .reading, calls := .rxRead rlen timeout :: s.calls }

/-- The first `w` bytes of the frame have been handed over (20_memory.md R59). -/
def handOver (frame : List Byte) (w : Nat) (s : State) : State := { s with wire := s.wire ++ frame.take w }

/-- The completion of the write in flight (R194-R197). -/
def completeWrite (w : Nat) (cur : Latch) (timeout : Nat) (s : State) : State :=
  if cur.flen < w then raise .transportContract s
  else if w < cur.flen then finish (.writeFailure w) (handOver cur.frame w s)
  else if cur.rlen = 0 then finish (.ok none) (handOver cur.frame w s)
  else issueRead cur.rlen timeout (handOver cur.frame w s)

/-- The completion of the read in flight (R199-R201). The sequencer drives the decoder's inputs only with a whole reply. -/
def completeRead (bytes : List Byte) (cur : Latch) (s : State) : State :=
  if cur.rlen < bytes.length then raise .transportContract s
  else if bytes.length < cur.rlen then { finish (.readShortfall bytes.length) s with suspect := true }
  else
    let d : DecIn := { dcmd := cur.cmd, rbuf := s.decIn.rbuf.load bytes, rcnt := BitVec.ofNat 3 bytes.length }
    match decodeResponse d with
    | .ok r => finish (.ok (some r)) (writeDecoded r (driveDecoder d s))
    | .error f => raise f (driveDecoder d s)

/-- `wdone(w)`: a step only in WRITING with OPEN = 1 (R194, R205). CUR without a value is a read of no value (log 16). -/
def writeDone (w : Nat) (s : State) : Result :=
  match s.phase, s.isOpen with
  | .writing, true =>
    match s.cur, s.curTimeout with
    | some cur, some timeout => .next (completeWrite w cur timeout s)
    | _, _ => .next (raise .noValue s)
  | _, _ => .fault .completionHasNoStep

/-- `rdone(c, bytes)`: a step only in READING with OPEN = 1 (R199, R205). -/
def readDone (bytes : List Byte) (s : State) : Result :=
  match s.phase, s.isOpen with
  | .reading, true =>
    match s.cur with
    | some cur => .next (completeRead bytes cur s)
    | none => .next (raise .noValue s)
  | _, _ => .fault .completionHasNoStep

/-- The caller's `open` (R205). -/
def openTransport (s : State) : Result :=
  match s.phase, s.isOpen with
  | .idle, false => .next { s with isOpen := true }
  | _, _ => .fault .openHasNoStep

/-- A `close` during an exchange abandons it (R198). -/
def abandon (s : State) : State :=
  { s with isOpen := false, suspect := true, outcome := none, phase := .idle, cur := none, curTimeout := none }

/-- The caller's `close` (R198, R205). -/
def closeTransport (s : State) : Result :=
  match s.phase, s.isOpen with
  | .idle, true => .next { s with isOpen := false }
  | .writing, true => .next (abandon s)
  | .reading, true => .next (abandon s)
  | _, false => .fault .closeHasNoStep

/-! ### The end of a run -/

/-- Whether the caller presents the event, as against the transport completing a call (00_scope.md R13). A power-on reset counts as the caller's (log 23). -/
def Event.isCallers : Event → Bool
  | .req _ _ => true
  | .row _ _ => true
  | .wdone _ => false
  | .rdone _ => false
  | .openTransport => true
  | .closeTransport => true
  | .evalEncoder _ => true
  | .evalDecoder _ => true
  | .read _ => true
  | .powerOn => true

/-- The run of this sequencer is over: IDLE, closed, and the caller presents no further step (70_reset_and_hazards.md R264). A late completion of the transport
may still be pending (95_test_vectors.md Program 5). -/
abbrev State.runOver (s : State) : Prop := s.phase = .idle ∧ s.isOpen = false ∧ ∀ e ∈ s.inputs, e.isCallers = false

/-- The decoder outputs that hold a value: those of the last evaluation (10_state.md R26), and none after the run (R264; log 11). -/
def decOutputs (s : State) : Option DecResult := if s.runOver then none else s.dec

/-! ### Reading a port -/

/-- What a port or field holds, or no value (10_state.md R22, R26, R29, R37; 70_reset_and_hazards.md R264). -/
def portValue (p : Port) (s : State) : Option PortValue :=
  match p with
  | .frame i => s.enc.bind (fun e => e.frame[i]?.map (fun b => .bits b.toNat))
  | .flen => s.enc.map (fun e => .bits e.flen.toNat)
  | .rleno => s.enc.map (fun e => .bits e.rleno.toNat)
  | .verr => s.enc.map (fun e => .bits e.verr.toNat)
  | .lstat =>
    match decOutputs s with
    | some (.limitStatus l) => some (.bits l.toNat)
    | _ => none
  | .vraw =>
    match decOutputs s with
    | some (.raw16 v) => some (.bits v.toNat)
    | _ => none
  | .fwPid =>
    match decOutputs s with
    | some (.firmware pid _ _) => some (.bits pid.toNat)
    | _ => none
  | .fwMinor =>
    match decOutputs s with
    | some (.firmware _ minor _) => some (.bits minor.toNat)
    | _ => none
  | .fwMajor =>
    match decOutputs s with
    | some (.firmware _ _ major) => some (.bits major.toNat)
    | _ => none
  | .outcome => s.outcome.map .outcome

/-- The caller reads a port: the value, or F_NO_VALUE where it holds none (60_exceptions.md R232; log 17). The read is itself a step the caller
presents, so the run is not over at it (R264). -/
def readPort (p : Port) (s : State) : State :=
  match portValue p { s with inputs := .read p :: s.inputs } with
  | some v => { s with readBack := some v }
  | none => raise .noValue s

/-! ### Power-on reset -/

/-- Every field of R37 takes its reset value; the configuration, the caller-driven inputs and the observations stay (70_reset_and_hazards.md R250; log 23). -/
def powerOn (s : State) : State :=
  { s with
    phase := .idle
    cur := none
    curTimeout := none
    outcome := none
    isOpen := false
    suspect := false
    fault := .empty
    enc := none
    dec := none }

end Sys2Proof.Machine
end

