-- ==== Sys2Proof/Machine/Control.lean ====
section
/-! DEFINITION. The control commands ExitSafeStart and Stop, both modes (spec/40_frame_builder.md R130, R136), each one request step (42_exchange_sequencer.md R209).
A row drives the inputs its rule lists; the other ports keep what they held and are not read (R127). -/

namespace Sys2Proof.Machine

/-- ExitSafeStart.A (R130). -/
def execExitSafeStartA (dev : Byte) (s : State) : Result :=
  request { s.encIn with cmd := Command.exitSafeStart.code, mode := .addressed, dev := dev } s

/-- ExitSafeStart.B (R130). -/
def execExitSafeStartB (s : State) : Result :=
  request { s.encIn with cmd := Command.exitSafeStart.code, mode := .broadcast } s

/-- Stop.A (R136). -/
def execStopA (dev : Byte) (s : State) : Result :=
  request { s.encIn with cmd := Command.stop.code, mode := .addressed, dev := dev } s

/-- Stop.B (R136). -/
def execStopB (s : State) : Result :=
  request { s.encIn with cmd := Command.stop.code, mode := .broadcast } s

end Sys2Proof.Machine
end

