-- ==== Sys2Proof/Machine/Motion.lean ====
section
/-! DEFINITION. The motion commands and Brake, both modes (spec/40_frame_builder.md R131-R135), each one request step (42_exchange_sequencer.md R209).
A row drives the inputs its rule lists; the other ports keep what they held and are not read (R127). -/

namespace Sys2Proof.Machine

/-- MotorForward.A (R131). -/
def execMotorForwardA (dev : Byte) (pwm : Half) (s : State) : Result :=
  request { s.encIn with cmd := Command.motorForward.code, mode := .addressed, dev := dev, pval := pwm } s

/-- MotorForward.B (R131). -/
def execMotorForwardB (pwm : Half) (s : State) : Result :=
  request { s.encIn with cmd := Command.motorForward.code, mode := .broadcast, pval := pwm } s

/-- MotorReverse.A (R132). -/
def execMotorReverseA (dev : Byte) (pwm : Half) (s : State) : Result :=
  request { s.encIn with cmd := Command.motorReverse.code, mode := .addressed, dev := dev, pval := pwm } s

/-- MotorReverse.B (R132). -/
def execMotorReverseB (pwm : Half) (s : State) : Result :=
  request { s.encIn with cmd := Command.motorReverse.code, mode := .broadcast, pval := pwm } s

/-- MotorForward7Bit.A (R133). -/
def execMotorForward7BitA (dev : Byte) (pwm : Half) (s : State) : Result :=
  request { s.encIn with cmd := Command.motorForward7Bit.code, mode := .addressed, dev := dev, pval := pwm } s

/-- MotorForward7Bit.B (R133). -/
def execMotorForward7BitB (pwm : Half) (s : State) : Result :=
  request { s.encIn with cmd := Command.motorForward7Bit.code, mode := .broadcast, pval := pwm } s

/-- MotorReverse7Bit.A (R134). -/
def execMotorReverse7BitA (dev : Byte) (pwm : Half) (s : State) : Result :=
  request { s.encIn with cmd := Command.motorReverse7Bit.code, mode := .addressed, dev := dev, pval := pwm } s

/-- MotorReverse7Bit.B (R134). -/
def execMotorReverse7BitB (pwm : Half) (s : State) : Result :=
  request { s.encIn with cmd := Command.motorReverse7Bit.code, mode := .broadcast, pval := pwm } s

/-- Brake.A (R135). -/
def execBrakeA (dev : Byte) (duty : Half) (s : State) : Result :=
  request { s.encIn with cmd := Command.brake.code, mode := .addressed, dev := dev, pval := duty } s

/-- Brake.B (R135). -/
def execBrakeB (duty : Half) (s : State) : Result :=
  request { s.encIn with cmd := Command.brake.code, mode := .broadcast, pval := duty } s

end Sys2Proof.Machine
end

