-- ==== Sys2Proof/Machine/Query.lean ====
section
/-! DEFINITION. The response-bearing commands SetLimit, GetVariable, GetFirmware (spec/40_frame_builder.md R137-R139), each one request step (42_exchange_sequencer.md R209); their Broadcast rows fail validation (R124).
A row drives the inputs its rule lists; the other ports keep what they held and are not read (R127). -/

namespace Sys2Proof.Machine

/-- SetLimit.A (R137). -/
def execSetLimitA (dev : Byte) (limitId : Byte) (value : Half) (s : State) : Result :=
  request { s.encIn with cmd := Command.setLimit.code, mode := .addressed, dev := dev, pid := limitId, pval := value } s

/-- SetLimit.B (R137). It fails validation whatever its operands (R124). -/
def execSetLimitB (limitId : Byte) (value : Half) (s : State) : Result :=
  request { s.encIn with cmd := Command.setLimit.code, mode := .broadcast, pid := limitId, pval := value } s

/-- GetVariable.A (R138). -/
def execGetVariableA (dev : Byte) (variableId : Byte) (s : State) : Result :=
  request { s.encIn with cmd := Command.getVariable.code, mode := .addressed, dev := dev, pid := variableId } s

/-- GetVariable.B (R138). It fails validation whatever its operands (R124). -/
def execGetVariableB (variableId : Byte) (s : State) : Result :=
  request { s.encIn with cmd := Command.getVariable.code, mode := .broadcast, pid := variableId } s

/-- GetFirmware.A (R139). -/
def execGetFirmwareA (dev : Byte) (s : State) : Result :=
  request { s.encIn with cmd := Command.getFirmware.code, mode := .addressed, dev := dev } s

/-- GetFirmware.B (R139). It fails validation whatever its operands (R124). -/
def execGetFirmwareB (s : State) : Result :=
  request { s.encIn with cmd := Command.getFirmware.code, mode := .broadcast } s

end Sys2Proof.Machine
end

