-- ==== Sys2Proof/Machine/Reply.lean ====
section
/-! DEFINITION. The three reply rows, each one evaluation of the Response Decoder on a whole reply (spec/00_scope.md R4, 41_response_decoder.md R170, R174-R176; log 10).
RBUF bytes past the reply keep what they held and are not read (R173). -/

namespace Sys2Proof.Machine

/-- SetLimit.reply (R174). -/
def execSetLimitReply (b0 : Byte) (s : State) : Result :=
  .next (evalDecoder { dcmd := Command.setLimit.code, rbuf := s.decIn.rbuf.load [b0], rcnt := 1 } s)

/-- GetVariable.reply (R175). -/
def execGetVariableReply (b0 b1 : Byte) (s : State) : Result :=
  .next (evalDecoder { dcmd := Command.getVariable.code, rbuf := s.decIn.rbuf.load [b0, b1], rcnt := 2 } s)

/-- GetFirmware.reply (R176). -/
def execGetFirmwareReply (b0 b1 b2 b3 : Byte) (s : State) : Result :=
  .next (evalDecoder { dcmd := Command.getFirmware.code, rbuf := s.decIn.rbuf.load [b0, b1, b2, b3], rcnt := 4 } s)

end Sys2Proof.Machine
end

