-- ==== Sys2Proof/Machine/Dispatch.lean ====
section
/-! DEFINITION. One arm per constructor of Instr, each one direct call of the instruction's meaning. -/

namespace Sys2Proof.Machine

def exec (i : Instr) (s : State) : Host.Outcome State Fault Refusal :=
  match i with
  | .exitSafeStartA dev => Sys2Proof.Machine.execExitSafeStartA dev s
  | .exitSafeStartB => Sys2Proof.Machine.execExitSafeStartB s
  | .motorForwardA dev pwm => Sys2Proof.Machine.execMotorForwardA dev pwm s
  | .motorForwardB pwm => Sys2Proof.Machine.execMotorForwardB pwm s
  | .motorReverseA dev pwm => Sys2Proof.Machine.execMotorReverseA dev pwm s
  | .motorReverseB pwm => Sys2Proof.Machine.execMotorReverseB pwm s
  | .motorForward7BitA dev pwm => Sys2Proof.Machine.execMotorForward7BitA dev pwm s
  | .motorForward7BitB pwm => Sys2Proof.Machine.execMotorForward7BitB pwm s
  | .motorReverse7BitA dev pwm => Sys2Proof.Machine.execMotorReverse7BitA dev pwm s
  | .motorReverse7BitB pwm => Sys2Proof.Machine.execMotorReverse7BitB pwm s
  | .brakeA dev duty => Sys2Proof.Machine.execBrakeA dev duty s
  | .brakeB duty => Sys2Proof.Machine.execBrakeB duty s
  | .stopA dev => Sys2Proof.Machine.execStopA dev s
  | .stopB => Sys2Proof.Machine.execStopB s
  | .setLimitA dev limitId value => Sys2Proof.Machine.execSetLimitA dev limitId value s
  | .setLimitB limitId value => Sys2Proof.Machine.execSetLimitB limitId value s
  | .getVariableA dev variableId => Sys2Proof.Machine.execGetVariableA dev variableId s
  | .getVariableB variableId => Sys2Proof.Machine.execGetVariableB variableId s
  | .getFirmwareA dev => Sys2Proof.Machine.execGetFirmwareA dev s
  | .getFirmwareB => Sys2Proof.Machine.execGetFirmwareB s
  | .setLimitReply b0 => Sys2Proof.Machine.execSetLimitReply b0 s
  | .getVariableReply b0 b1 => Sys2Proof.Machine.execGetVariableReply b0 b1 s
  | .getFirmwareReply b0 b1 b2 b3 => Sys2Proof.Machine.execGetFirmwareReply b0 b1 b2 b3 s

end Sys2Proof.Machine
end

