-- ==== Sys2Proof/Machine/Events.lean ====
section
/-! DEFINITION. What each event of an agent does (spec/42_exchange_sequencer.md R190, R205): the requests run through `exec`, the others are the
sequencer's and the units' own steps; and how a table word is presented. -/

namespace Sys2Proof.Machine

/-- The caller drives the encoder's inputs and TIMEOUT with a request (10_state.md R21, R33), whatever comes of it (DESIGN CHOICE, log 12). -/
def driveRequest (r : Req) (timeout : Nat) (s : State) : State := { s with encIn := r, timeoutIn := timeout }

/-- `req(r, TIMEOUT)`: the request's row (R209); a reserved code is no row and is the same request step (30_encoding.md R86, R93). -/
def runRequest (r : Req) (timeout : Nat) (s : State) : Result :=
  match Instr.ofReq r with
  | some i => exec i (driveRequest r timeout s)
  | none => request r (driveRequest r timeout s)

/-- A row: a call of R99 (42_exchange_sequencer.md R209), a reply for the decoder (log 10). The block receives no bytes of a row (30_encoding.md R94), so
none is read here. DESIGN CHOICE (log 12): the event drives TIMEOUT whatever comes of the row, also when it is turned away by F_BUSY or F_NOT_OPEN, and for a
reply row, which has no TIMEOUT of its own; the spec says nothing of what the argument holds then. -/
def runRow (i : Instr) (timeout : Nat) (s : State) : Result := exec i { s with timeoutIn := timeout }

/-- One event (R190). -/
def runEvent (e : Event) (s : State) : Result :=
  match e with
  | .req r timeout => runRequest r timeout s
  | .row i timeout => runRow i timeout s
  | .wdone w => writeDone w s
  | .rdone bytes => readDone bytes s
  | .openTransport => openTransport s
  | .closeTransport => closeTransport s
  | .evalEncoder r => .next (evalEncoder r s)
  | .evalDecoder d => .next (evalDecoder d s)
  | .read p => .next (readPort p s)
  | .powerOn => .next (powerOn s)

/-- A state that admits a request: OPEN = 1, PHASE = IDLE, CUR without a value (R191). -/
def admitting (s : State) : State := { s with isOpen := true, phase := .idle, cur := none, curTimeout := none }

/-- The row that the word decodes to, under the machine's configuration, is the next event, presented to a machine that admits it; a word that is no row
names no call, and nothing is presented (log 7, log 8). -/
def presentWord (nbits w : Nat) (s : State) : State :=
  match decodeWord s.cfg (bytesOfWord (nbits / 8) w) with
  | .ok i => { admitting s with inputs := .row i s.timeoutIn :: s.inputs }
  | .error _ => admitting s

end Sys2Proof.Machine
end

