-- ==== Sys2Proof/Machine/Step.lean ====
section
/-! DEFINITION. One step: the environment's next event (spec/42_exchange_sequencer.md R190, 60_exceptions.md R235). -/

namespace Sys2Proof.Machine

/-- The first event of the schedule is taken and run; with none presented nothing happens (70_reset_and_hazards.md R264). -/
def step (s : State) : Host.Outcome State Fault Refusal :=
  match s.inputs with
  | [] => .fault .noEvent
  | e :: rest => runEvent e { s with inputs := rest }

/-- The state in which the very next step runs the row whose table word is `w` (log 7). -/
def State.withFetchWord (s : State) (nbits w : Nat) : State := presentWord nbits w s

end Sys2Proof.Machine
end

