-- ==== Sys2Proof/Safety.lean ====
section
/-! DEFINITION. What counts as a safe run and a good end (spec/60_exceptions.md R233, 70_reset_and_hazards.md R258, R264), the invariant of the machine's
reachable states, and the plain state updates that statements are written in. -/

namespace Sys2Proof.Machine

/-- FAULT is empty, the premise every claim takes (R233). -/
def State.faultFree (s : State) : Prop := s.fault = FaultSet.empty

/-- A good end of a run (R264, R233): the run is over (`State.runOver`) and FAULT is empty. -/
def State.goodEnd (s : State) : Prop := s.runOver ∧ s.faultFree

/-- FAULT of one state is contained in that of another. -/
def FaultSet.subset (f g : FaultSet) : Prop := ∀ n : FaultName, f.mem n = true → g.mem n = true

/-! ### The invariant -/

/-- A latch holds the frame of some valid request and that request's lengths (10_state.md R28, 42_exchange_sequencer.md R193). -/
def Latch.Legal (cfg : Config) (l : Latch) : Prop :=
  ∃ r : Req, r.cmd = l.cmd ∧ encodeRequest cfg r = .ok l.frame ∧ l.flen = l.frame.length ∧ l.rlen = rlenOfCode l.cmd

/-- The encoder's outputs agree with each other (10_state.md R22). -/
structure EncOut.Consistent (e : EncOut) : Prop where
  frameLength : e.frame.length = e.flen.toNat
  flenMax : e.flen.toNat ≤ 6
  rlenoMax : e.rleno.toNat ≤ 4
  failIffEmpty : e.flen = 0 ↔ e.verr ≠ 0

/-- An outcome's data is in its range (60_exceptions.md R220): a violated check, fewer bytes than the longest frame or reply. -/
def ExchangeOutcome.InRange : ExchangeOutcome → Prop
  | .ok _ => True
  | .validationError v => v ≠ 0
  | .writeFailure w => w < 6
  | .readShortfall c => c < 4

/-- The transport calls of a history, newest first: every TxWrite names exactly its frame's 1 to 6 bytes, every RxRead a reply's
1, 2 or 4, and each RxRead directly follows a TxWrite (20_memory.md R58, R62; 42_exchange_sequencer.md R208). -/
def callsOrdered : List TransportCall → Prop
  | [] => True
  | .txWrite frame n :: rest => n = frame.length ∧ 1 ≤ n ∧ n ≤ 6 ∧ callsOrdered rest
  | .rxRead n _ :: .txWrite frame m :: rest =>
    (n = 1 ∨ n = 2 ∨ n = 4) ∧ m = frame.length ∧ 1 ≤ m ∧ m ≤ 6 ∧ callsOrdered rest
  | .rxRead _ _ :: _ => False

/-- What every step keeps: the configuration is admitted (R90), CUR and the latched TIMEOUT hold a value exactly during an exchange
(R28, R204), an exchange has OPEN = 1 (R191, R205), and the outstanding transport call is the one PHASE names (R27, R193, R197). -/
structure State.Inv (s : State) : Prop where
  admitted : s.cfg.Admitted
  latchIffBusy : s.cur.isSome = true ↔ s.phase ≠ .idle
  timeoutIffBusy : s.curTimeout.isSome = true ↔ s.phase ≠ .idle
  openWhileBusy : s.phase ≠ .idle → s.isOpen = true
  latchLegal : ∀ l, s.cur = some l → l.Legal s.cfg
  readingExpects : s.phase = .reading → ∀ l, s.cur = some l → 0 < l.rlen
  writeOutstanding : s.phase = .writing → ∀ l, s.cur = some l → ∃ rest, s.calls = .txWrite l.frame l.flen :: rest
  readOutstanding : s.phase = .reading → ∀ l t, s.cur = some l → s.curTimeout = some t →
    ∃ rest, s.calls = .rxRead l.rlen t :: .txWrite l.frame l.flen :: rest
  ordered : callsOrdered s.calls
  encConsistent : ∀ e, s.enc = some e → e.Consistent
  outcomeInRange : ∀ o, s.outcome = some o → o.InRange

/-! ### The state updates statements are written in -/

/-- The state after a valid request's write is issued, from the request, its frame and its response length: the encoder's ports, CUR, the latched TIMEOUT, PHASE and
the TxWrite; nothing else (42_exchange_sequencer.md R192, R193). -/
def State.issued (s : State) (r : Req) (frame : List Byte) (rlen : Nat) : State :=
  { s with
    encIn := r
    enc := some { frame := frame, flen := BitVec.ofNat 3 frame.length, rleno := BitVec.ofNat 3 rlen, verr := 0 }
    cur := some { cmd := r.cmd, frame := frame, flen := frame.length, rlen := rlen }
    curTimeout := some s.timeoutIn
    phase := .writing
    calls := .txWrite frame frame.length :: s.calls }

/-- The state after an invalid request: the encoder's ports and OUTCOME; nothing else (R125, R192). -/
def State.invalid (s : State) (r : Req) (v : BitVec 9) (rlen : Nat) : State :=
  { s with
    encIn := r
    enc := some { frame := [], flen := 0, rleno := BitVec.ofNat 3 rlen, verr := v }
    outcome := some (.validationError v) }

end Sys2Proof.Machine
end

