-- ==== Sys2Proof/Certificates/Slice0/Obligations.lean ====
section
/-! DEFINITION. The statements about the machine, from the numbered rules of spec/. Numbers are the spec's own literals, not the model's constants.
Premises that name a configuration ask no more than its admission (R90); no statement rests on a value of State.reset's configuration
except the sanity statement about profile P-GK. -/

open Sys2Proof Sys2Proof.Machine

/-! ### Encoding -/

/-- Words written out from opcode_table.json's encodings and P-GK's opcodes (R91) decode to the rows they stand for. The P-GK values are the model's
choice of configuration (log 1, log 2), and that the first byte of a table word is its most significant is DEDUCED (log 8); neither is a rule. -/
def Obligations.WordsOfTheTableDecodeUnderProfilePGK : Prop :=
  decodeWord Config.pgk [0xAA, 0x0D, 0x03] = .ok (.exitSafeStartA 13) ∧
  decodeWord Config.pgk [0xE0] = .ok .stopB ∧
  decodeWord Config.pgk [0xAA, 0x0D, 0x05, 0x08, 0x1F] = .ok (.motorForwardA 13 1000) ∧
  decodeWord Config.pgk [0x8A, 0x64] = .ok (.motorReverse7BitB 100) ∧
  decodeWord Config.pgk [0xAA, 0x02, 0x22, 0x00, 0x38, 0x17] = .ok (.setLimitA 2 0 3000) ∧
  decodeTableWord 32 0xAA021214 = some (.brakeA 2 20) ∧
  decodeTableWord 24 0xAA0042 = some (.getFirmwareA 0) ∧
  decodeTableWord 24 0xAA8042 = none

/-- The frame encoding is self-delimiting (R97): whatever bytes follow, the listener reads back the row that was encoded, every operand with it. -/
def Obligations.FrameDecodesToTheEncodedRow : Prop :=
  ∀ (cfg : Config) (i : Instr) (rest : List Byte), cfg.Admitted → cfg.OpcodesInjective →
    i.isRequest = true → i.wellFormed cfg = true → decodeFrame cfg (encode cfg i ++ rest) = .ok (i, rest)

/-- A frame that is read at all is the encoding of the well-formed request it is read as: no reserved bit, no operand out of range, no response-bearing Broadcast. -/
def Obligations.OnlyEncodedFramesDecode : Prop :=
  ∀ (cfg : Config) (bytes rest : List Byte) (i : Instr), decodeFrame cfg bytes = .ok (i, rest) →
    i.isRequest = true ∧ i.wellFormed cfg = true ∧ bytes = encode cfg i ++ rest

/-- Every reply of its command's length reads back as that reply (R96). -/
def Obligations.ReplyDecodesToTheEncodedRow : Prop :=
  ∀ (cfg : Config) (i : Instr) (rest : List Byte), i.isRequest = false →
    decodeReply i.command (encode cfg i ++ rest) = .ok (i, rest)

/-- The frame the encoder outputs for a well-formed row, with its operands on the ports and anything on the others, is the row's encoding by the bit tables of R81, R82, R84. -/
def Obligations.EncoderOutputsTheRowsEncoding : Prop :=
  ∀ (cfg : Config) (r : Req) (i : Instr), Instr.ofReq r = some i → i.wellFormed cfg = true →
    encodeRequest cfg r = .ok (encode cfg i)

/-- A row of a defined command has an encoding exactly when VERR is 0 (R93). -/
def Obligations.RowIsWellFormedExactlyWhenVerrIsZero : Prop :=
  ∀ (cfg : Config) (r : Req) (i : Instr), Instr.ofReq r = some i → (i.wellFormed cfg = true ↔ verr cfg r = 0)

/-! ### The Frame Encoder -/

/-- R123: each VERR bit is 1 exactly when its condition holds; all are reported at once. -/
def Obligations.VerrBitsAreExactlyTheViolatedConditions : Prop :=
  ∀ (cfg : Config) (r : Req),
    ((verr cfg r).getLsbD 0 = true ↔ 10 ≤ r.cmd.toNat) ∧
    ((verr cfg r).getLsbD 1 = true ↔ r.mode = .broadcast ∧ 7 ≤ r.cmd.toNat ∧ r.cmd.toNat ≤ 9) ∧
    ((verr cfg r).getLsbD 2 = true ↔ r.mode = .addressed ∧ 127 < r.dev.toNat) ∧
    ((verr cfg r).getLsbD 3 = true ↔ (r.cmd = 1 ∨ r.cmd = 2) ∧ 3200 < r.pval.toNat) ∧
    ((verr cfg r).getLsbD 4 = true ↔ (r.cmd = 3 ∨ r.cmd = 4) ∧ 127 < r.pval.toNat) ∧
    ((verr cfg r).getLsbD 5 = true ↔ r.cmd = 5 ∧ 32 < r.pval.toNat) ∧
    ((verr cfg r).getLsbD 6 = true ↔ r.cmd = 7 ∧ 16383 < r.pval.toNat) ∧
    ((verr cfg r).getLsbD 7 = true ↔ r.cmd = 7 ∧ cfg.limitIdValid r.pid = false) ∧
    ((verr cfg r).getLsbD 8 = true ↔ r.cmd = 8 ∧ cfg.varIdValid r.pid = false)

/-- R125: a nonzero VERR gives Fail(VERR), FLEN 0 and no FRAME byte, and the sequencer makes no transport call; a zero VERR gives a whole frame. -/
def Obligations.EncoderFailsClosed : Prop :=
  ∀ (r : Req) (s : State),
    (verr s.cfg r ≠ 0 → encodeRequest s.cfg r = .error (verr s.cfg r) ∧ (encOut s.cfg r).flen = 0 ∧ (encOut s.cfg r).verr = verr s.cfg r ∧
      (∀ i, portValue (.frame i) { s with enc := some (encOut s.cfg r) } = none) ∧ ∃ t, request r s = .next t ∧ t.calls = s.calls) ∧
    (verr s.cfg r = 0 → ∃ frame, encodeRequest s.cfg r = .ok frame ∧ (encOut s.cfg r).frame = frame ∧ (encOut s.cfg r).verr = 0)

/-- R80, R83, R88: a frame has PRE(mode) + PLEN(cmd) bytes, by the static table, and FLEN says so; the longest has 6; no Broadcast frame is of a response-bearing command. -/
def Obligations.FrameLengthIsTheStaticLength : Prop :=
  ∀ (cfg : Config) (r : Req) (frame : List Byte), encodeRequest cfg r = .ok frame →
    frame.length = (if r.mode = .addressed then 3 else 1) +
      (if r.cmd = 0 ∨ r.cmd = 6 ∨ r.cmd = 9 then 0 else if r.cmd = 1 ∨ r.cmd = 2 then 2 else if r.cmd = 7 then 3 else 1) ∧
    1 ≤ frame.length ∧ frame.length ≤ 6 ∧ (encOut cfg r).flen.toNat = frame.length ∧ (r.mode = .broadcast → r.cmd.toNat ≤ 6)

/-- R85, R94: a frame is HEADER, device id, Addressed opcode and payload, or Broadcast opcode and payload; every data byte has bit 7 clear; a Broadcast frame holds no header. -/
def Obligations.FrameBytesKeepTheDataByteRule : Prop :=
  ∀ (cfg : Config) (r : Req) (frame : List Byte), cfg.Admitted → encodeRequest cfg r = .ok frame →
    (r.mode = .addressed → ∃ dev c pl, frame = 0xAA :: dev :: cfg.opcA.get c :: pl ∧ dev.toNat ≤ 127 ∧ ∀ b ∈ pl, b.toNat ≤ 127) ∧
    (r.mode = .broadcast → ∃ c pl, frame = cfg.opcB.get c :: pl ∧ (∀ b ∈ pl, b.toNat ≤ 127) ∧ (0xAA : Byte) ∉ frame)

/-- R145: the PW13 bytes of every accepted pwm recover it and are in range. -/
def Obligations.Pwm13SplitRecoversThePwm : Prop :=
  ∀ (pwm : Half), pwm.toNat ≤ 3200 → ∃ lo hi, payloadPW13 pwm = [lo, hi] ∧
    hi.toNat * 32 + lo.toNat = pwm.toNat ∧ lo.toNat ≤ 31 ∧ hi.toNat ≤ 100

/-- R146: the PL bytes of every accepted limit value recover it and are in range. -/
def Obligations.LimitValueSplitRecoversTheValue : Prop :=
  ∀ (pid : Byte) (value : Half), value.toNat ≤ 16383 → ∃ id lo hi, payloadPL pid value = [id, lo, hi] ∧
    (hi.toNat <<< 7) ||| lo.toNat = value.toNat ∧ lo.toNat ≤ 127 ∧ hi.toNat ≤ 127

/-- R127, R121: two requests that differ only in inputs their command and mode do not use give identical results. -/
def Obligations.UnusedInputsDoNotMatter : Prop :=
  ∀ (cfg : Config) (r r' : Req), r.cmd = r'.cmd → r.mode = r'.mode →
    (r.mode = .addressed → r.dev = r'.dev) →
    ((1 ≤ r.cmd.toNat ∧ r.cmd.toNat ≤ 5) ∨ r.cmd = 7 → r.pval = r'.pval) →
    (r.cmd = 7 ∨ r.cmd = 8 → r.pid = r'.pid) →
    encodeRequest cfg r = encodeRequest cfg r' ∧ encOut cfg r = encOut cfg r'

/-! ### Requests: what a row does when it is admitted and valid -/

/-- R192, R193: an admitted request evaluates the encoder; a failure is the OUTCOME, with PHASE, CUR and the transport untouched; a frame is latched with its
lengths and written, exactly FLEN bytes, and PHASE is WRITING. -/
def Obligations.AdmittedRequestsAreValidatedThenIssued : Prop :=
  ∀ (s : State) (r : Req), s.phase = .idle → s.isOpen = true →
    (∀ v, encodeRequest s.cfg r = .error v → request r s = .next (s.invalid r v (rlenOfCode r.cmd))) ∧
    (∀ frame, encodeRequest s.cfg r = .ok frame → request r s = .next (s.issued r frame (rlenOfCode r.cmd)))

/-- R130, R136: ExitSafeStart and Stop issue their frames, in both modes; a device id above 127 fails with VERR[2]. -/
def Obligations.ControlCommandsFollowTheirRules : Prop :=
  ∀ (s : State) (dev : Byte), s.phase = .idle → s.isOpen = true →
    (dev.toNat ≤ 127 →
      exec (.exitSafeStartA dev) s = .next (s.issued { s.encIn with cmd := 0, mode := .addressed, dev := dev }
        [0xAA, dev, s.cfg.opcA.exitSafeStart] 0) ∧
      exec (.stopA dev) s = .next (s.issued { s.encIn with cmd := 6, mode := .addressed, dev := dev }
        [0xAA, dev, s.cfg.opcA.stop] 0)) ∧
    exec .exitSafeStartB s = .next (s.issued { s.encIn with cmd := 0, mode := .broadcast } [s.cfg.opcB.exitSafeStart] 0) ∧
    exec .stopB s = .next (s.issued { s.encIn with cmd := 6, mode := .broadcast } [s.cfg.opcB.stop] 0) ∧
    (127 < dev.toNat →
      exec (.exitSafeStartA dev) s = .next (s.invalid { s.encIn with cmd := 0, mode := .addressed, dev := dev } 0x004 0) ∧
      exec (.stopA dev) s = .next (s.invalid { s.encIn with cmd := 6, mode := .addressed, dev := dev } 0x004 0))

/-- R131, R132: MotorForward and MotorReverse issue their frames, in both modes: the low 5 bits of pwm, then pwm >> 5; a device id above 127 fails with
VERR[2] and a pwm above 3200 with VERR[3], both at once where both hold. -/
def Obligations.Motor13CommandsFollowTheirRules : Prop :=
  ∀ (s : State) (dev : Byte) (pwm : Half), s.phase = .idle → s.isOpen = true →
    (dev.toNat ≤ 127 → pwm.toNat ≤ 3200 →
      exec (.motorForwardA dev pwm) s = .next (s.issued { s.encIn with cmd := 1, mode := .addressed, dev := dev, pval := pwm }
        [0xAA, dev, s.cfg.opcA.motorForward, BitVec.ofNat 8 (pwm.toNat % 32), BitVec.ofNat 8 (pwm.toNat / 32)] 0) ∧
      exec (.motorReverseA dev pwm) s = .next (s.issued { s.encIn with cmd := 2, mode := .addressed, dev := dev, pval := pwm }
        [0xAA, dev, s.cfg.opcA.motorReverse, BitVec.ofNat 8 (pwm.toNat % 32), BitVec.ofNat 8 (pwm.toNat / 32)] 0)) ∧
    (pwm.toNat ≤ 3200 →
      exec (.motorForwardB pwm) s = .next (s.issued { s.encIn with cmd := 1, mode := .broadcast, pval := pwm }
        [s.cfg.opcB.motorForward, BitVec.ofNat 8 (pwm.toNat % 32), BitVec.ofNat 8 (pwm.toNat / 32)] 0) ∧
      exec (.motorReverseB pwm) s = .next (s.issued { s.encIn with cmd := 2, mode := .broadcast, pval := pwm }
        [s.cfg.opcB.motorReverse, BitVec.ofNat 8 (pwm.toNat % 32), BitVec.ofNat 8 (pwm.toNat / 32)] 0)) ∧
    (127 < dev.toNat ∨ 3200 < pwm.toNat →
      exec (.motorForwardA dev pwm) s = .next (s.invalid { s.encIn with cmd := 1, mode := .addressed, dev := dev, pval := pwm }
        ((if 127 < dev.toNat then 0x004 else 0) ||| (if 3200 < pwm.toNat then 0x008 else 0)) 0) ∧
      exec (.motorReverseA dev pwm) s = .next (s.invalid { s.encIn with cmd := 2, mode := .addressed, dev := dev, pval := pwm }
        ((if 127 < dev.toNat then 0x004 else 0) ||| (if 3200 < pwm.toNat then 0x008 else 0)) 0)) ∧
    (3200 < pwm.toNat →
      exec (.motorForwardB pwm) s = .next (s.invalid { s.encIn with cmd := 1, mode := .broadcast, pval := pwm } 0x008 0) ∧
      exec (.motorReverseB pwm) s = .next (s.invalid { s.encIn with cmd := 2, mode := .broadcast, pval := pwm } 0x008 0))

/-- R133, R134: MotorForward7Bit and MotorReverse7Bit issue their frames, in both modes: the pwm directly; a device id above 127 fails with VERR[2] and
a pwm above 127 with VERR[4]. -/
def Obligations.Motor7BitCommandsFollowTheirRules : Prop :=
  ∀ (s : State) (dev : Byte) (pwm : Half), s.phase = .idle → s.isOpen = true →
    (dev.toNat ≤ 127 → pwm.toNat ≤ 127 →
      exec (.motorForward7BitA dev pwm) s = .next (s.issued { s.encIn with cmd := 3, mode := .addressed, dev := dev, pval := pwm }
        [0xAA, dev, s.cfg.opcA.motorForward7Bit, BitVec.ofNat 8 pwm.toNat] 0) ∧
      exec (.motorReverse7BitA dev pwm) s = .next (s.issued { s.encIn with cmd := 4, mode := .addressed, dev := dev, pval := pwm }
        [0xAA, dev, s.cfg.opcA.motorReverse7Bit, BitVec.ofNat 8 pwm.toNat] 0)) ∧
    (pwm.toNat ≤ 127 →
      exec (.motorForward7BitB pwm) s = .next (s.issued { s.encIn with cmd := 3, mode := .broadcast, pval := pwm }
        [s.cfg.opcB.motorForward7Bit, BitVec.ofNat 8 pwm.toNat] 0) ∧
      exec (.motorReverse7BitB pwm) s = .next (s.issued { s.encIn with cmd := 4, mode := .broadcast, pval := pwm }
        [s.cfg.opcB.motorReverse7Bit, BitVec.ofNat 8 pwm.toNat] 0)) ∧
    (127 < dev.toNat ∨ 127 < pwm.toNat →
      exec (.motorForward7BitA dev pwm) s = .next (s.invalid { s.encIn with cmd := 3, mode := .addressed, dev := dev, pval := pwm }
        ((if 127 < dev.toNat then 0x004 else 0) ||| (if 127 < pwm.toNat then 0x010 else 0)) 0) ∧
      exec (.motorReverse7BitA dev pwm) s = .next (s.invalid { s.encIn with cmd := 4, mode := .addressed, dev := dev, pval := pwm }
        ((if 127 < dev.toNat then 0x004 else 0) ||| (if 127 < pwm.toNat then 0x010 else 0)) 0)) ∧
    (127 < pwm.toNat →
      exec (.motorForward7BitB pwm) s = .next (s.invalid { s.encIn with cmd := 3, mode := .broadcast, pval := pwm } 0x010 0) ∧
      exec (.motorReverse7BitB pwm) s = .next (s.invalid { s.encIn with cmd := 4, mode := .broadcast, pval := pwm } 0x010 0))

/-- R135: Brake issues its frame, in both modes: the duty directly, 0 accepted; a device id above 127 fails with VERR[2] and a duty above 32 with VERR[5]. -/
def Obligations.BrakeFollowsItsRule : Prop :=
  ∀ (s : State) (dev : Byte) (duty : Half), s.phase = .idle → s.isOpen = true →
    (dev.toNat ≤ 127 → duty.toNat ≤ 32 →
      exec (.brakeA dev duty) s = .next (s.issued { s.encIn with cmd := 5, mode := .addressed, dev := dev, pval := duty }
        [0xAA, dev, s.cfg.opcA.brake, BitVec.ofNat 8 duty.toNat] 0)) ∧
    (duty.toNat ≤ 32 →
      exec (.brakeB duty) s = .next (s.issued { s.encIn with cmd := 5, mode := .broadcast, pval := duty }
        [s.cfg.opcB.brake, BitVec.ofNat 8 duty.toNat] 0)) ∧
    (127 < dev.toNat ∨ 32 < duty.toNat →
      exec (.brakeA dev duty) s = .next (s.invalid { s.encIn with cmd := 5, mode := .addressed, dev := dev, pval := duty }
        ((if 127 < dev.toNat then 0x004 else 0) ||| (if 32 < duty.toNat then 0x020 else 0)) 0)) ∧
    (32 < duty.toNat →
      exec (.brakeB duty) s = .next (s.invalid { s.encIn with cmd := 5, mode := .broadcast, pval := duty } 0x020 0))

/-- R137: SetLimit issues its frame: the limit id, the low 7 bits of the value, then value >> 7; one reply byte is expected. -/
def Obligations.SetLimitIssuesTheSplitValue : Prop :=
  ∀ (s : State) (dev limitId : Byte) (value : Half), s.cfg.Admitted → s.phase = .idle → s.isOpen = true →
    dev.toNat ≤ 127 → s.cfg.limitIdValid limitId = true → value.toNat ≤ 16383 →
    exec (.setLimitA dev limitId value) s =
      .next (s.issued { s.encIn with cmd := 7, mode := .addressed, dev := dev, pval := value, pid := limitId }
        [0xAA, dev, s.cfg.opcA.setLimit, limitId, BitVec.ofNat 8 (value.toNat % 128), BitVec.ofNat 8 (value.toNat / 128)] 1)

/-- R138: GetVariable issues its frame; two reply bytes are expected. -/
def Obligations.GetVariableIssuesItsFrame : Prop :=
  ∀ (s : State) (dev variableId : Byte), s.cfg.Admitted → s.phase = .idle → s.isOpen = true →
    dev.toNat ≤ 127 → s.cfg.varIdValid variableId = true →
    exec (.getVariableA dev variableId) s =
      .next (s.issued { s.encIn with cmd := 8, mode := .addressed, dev := dev, pid := variableId }
        [0xAA, dev, s.cfg.opcA.getVariable, variableId] 2)

/-- R139: GetFirmware issues its frame; four reply bytes are expected. -/
def Obligations.GetFirmwareIssuesItsFrame : Prop :=
  ∀ (s : State) (dev : Byte), s.phase = .idle → s.isOpen = true → dev.toNat ≤ 127 →
    exec (.getFirmwareA dev) s =
      .next (s.issued { s.encIn with cmd := 9, mode := .addressed, dev := dev } [0xAA, dev, s.cfg.opcA.getFirmware] 4)

/-! ### Requests: what a row does when it is invalid or turned away -/

/-- R124, R93: the Broadcast rows of the response-bearing commands fail with VERR[1], and with every other violated bit, whatever their operands. -/
def Obligations.BroadcastQueriesAlwaysFail : Prop :=
  ∀ (s : State) (pid : Byte) (value : Half), s.phase = .idle → s.isOpen = true →
    exec (.setLimitB pid value) s =
      .next (s.invalid { s.encIn with cmd := 7, mode := .broadcast, pval := value, pid := pid }
        (0x002 ||| (if 16383 < value.toNat then 0x040 else 0) ||| (if s.cfg.limitIdValid pid then 0 else 0x080)) 1) ∧
    exec (.getVariableB pid) s =
      .next (s.invalid { s.encIn with cmd := 8, mode := .broadcast, pid := pid }
        (0x002 ||| (if s.cfg.varIdValid pid then 0 else 0x100)) 2) ∧
    exec .getFirmwareB s = .next (s.invalid { s.encIn with cmd := 9, mode := .broadcast } 0x002 4)

/-- R123, R192: an Addressed query row with an operand out of range or an unknown identifier ends in VALIDATION_ERROR with exactly the violated bits. -/
def Obligations.InvalidQueryOperandsAreReported : Prop :=
  ∀ (s : State) (dev pid : Byte) (value : Half), s.phase = .idle → s.isOpen = true →
    (127 < dev.toNat ∨ 16383 < value.toNat ∨ s.cfg.limitIdValid pid = false →
      exec (.setLimitA dev pid value) s =
        .next (s.invalid { s.encIn with cmd := 7, mode := .addressed, dev := dev, pval := value, pid := pid }
          ((if 127 < dev.toNat then 0x004 else 0) ||| (if 16383 < value.toNat then 0x040 else 0) |||
            (if s.cfg.limitIdValid pid then 0 else 0x080)) 1)) ∧
    (127 < dev.toNat ∨ s.cfg.varIdValid pid = false →
      exec (.getVariableA dev pid) s =
        .next (s.invalid { s.encIn with cmd := 8, mode := .addressed, dev := dev, pid := pid }
          ((if 127 < dev.toNat then 0x004 else 0) ||| (if s.cfg.varIdValid pid then 0 else 0x100)) 2)) ∧
    (127 < dev.toNat →
      exec (.getFirmwareA dev) s = .next (s.invalid { s.encIn with cmd := 9, mode := .addressed, dev := dev } 0x004 4))

/-- R191: outside IDLE any request is F_BUSY, and with OPEN = 0 in IDLE it is F_NOT_OPEN; FAULT gains the name and no other state changes. For every row, and
for every request of the ports, reserved codes too. -/
def Obligations.UnadmittedRequestsOnlyMarkTheFault : Prop :=
  ∀ (s : State),
    (s.phase ≠ .idle →
      (∀ i : Instr, i.isRequest = true → exec i s = .next { s with fault := { s.fault with busy := true } }) ∧
      (∀ r : Req, request r s = .next { s with fault := { s.fault with busy := true } })) ∧
    (s.phase = .idle → s.isOpen = false →
      (∀ i : Instr, i.isRequest = true → exec i s = .next { s with fault := { s.fault with notOpen := true } }) ∧
      (∀ r : Req, request r s = .next { s with fault := { s.fault with notOpen := true } }))

/-- A request on the raw ports with a reserved code (R86, R93): CMD_UNDEF, and DEV_RANGE where it holds; nothing is sent. That the event drives the ports
and TIMEOUT is log 12. -/
def Obligations.ReservedCodesAreRejected : Prop :=
  ∀ (s : State) (r : Req) (t : Nat) (rest : List Event), s.inputs = .req r t :: rest → s.phase = .idle → s.isOpen = true →
    10 ≤ r.cmd.toNat →
    step s = .next (State.invalid { s with inputs := rest, timeoutIn := t } r
      (0x001 ||| (if r.mode = .addressed ∧ 127 < r.dev.toNat then 0x004 else 0)) 0)

/-! ### Replies: the Response Decoder -/

/-- R174: a SetLimit reply gives the low 2 bits, the higher bits ignored, and changes only the decoder's ports; with no byte the decoder faults. That running a reply row
is one decoder evaluation, which drives DCMD, RBUF and RCNT, in any phase, is log 10 (DEDUCED). -/
def Obligations.SetLimitReplyGivesTheStatus : Prop :=
  (∀ (s : State) (b0 : Byte),
    exec (.setLimitReply b0) s = .next { s with
      decIn := { dcmd := 7, rbuf := { s.decIn.rbuf with b0 := b0 }, rcnt := 1 }
      dec := some (.limitStatus (BitVec.ofNat 2 (b0.toNat % 4))) }) ∧
  (∀ d : DecIn, d.dcmd = 7 →
    (1 ≤ d.rcnt.toNat → decodeResponse d = .ok (.limitStatus (BitVec.ofNat 2 (d.rbuf.b0.toNat % 4)))) ∧
    (d.rcnt = 0 → decodeResponse d = .error .shortInput))

/-- R175: a GetVariable reply gives the little-endian 16-bit value, raw, and changes only the decoder's ports; with fewer than two bytes the decoder faults. That running a reply row
is one decoder evaluation, which drives DCMD, RBUF and RCNT, in any phase, is log 10 (DEDUCED). -/
def Obligations.GetVariableReplyGivesTheRawValue : Prop :=
  (∀ (s : State) (b0 b1 : Byte),
    exec (.getVariableReply b0 b1) s = .next { s with
      decIn := { dcmd := 8, rbuf := { s.decIn.rbuf with b0 := b0, b1 := b1 }, rcnt := 2 }
      dec := some (.raw16 (BitVec.ofNat 16 (b0.toNat + 256 * b1.toNat))) }) ∧
  (∀ d : DecIn, d.dcmd = 8 →
    (2 ≤ d.rcnt.toNat → decodeResponse d = .ok (.raw16 (BitVec.ofNat 16 (d.rbuf.b0.toNat + 256 * d.rbuf.b1.toNat)))) ∧
    (d.rcnt.toNat < 2 → decodeResponse d = .error .shortInput))

/-- R176: a GetFirmware reply gives the product id and both version bytes as they are, and changes only the decoder's ports; with fewer than four bytes the decoder faults. That running a reply row
is one decoder evaluation, which drives DCMD, RBUF and RCNT, in any phase, is log 10 (DEDUCED). -/
def Obligations.GetFirmwareReplyGivesTheDescriptor : Prop :=
  (∀ (s : State) (b0 b1 b2 b3 : Byte),
    exec (.getFirmwareReply b0 b1 b2 b3) s = .next { s with
      decIn := { dcmd := 9, rbuf := { b0 := b0, b1 := b1, b2 := b2, b3 := b3 }, rcnt := 4 }
      dec := some (.firmware (BitVec.ofNat 16 (b0.toNat + 256 * b1.toNat)) b2 b3) }) ∧
  (∀ d : DecIn, d.dcmd = 9 →
    (4 ≤ d.rcnt.toNat → decodeResponse d = .ok (.firmware (BitVec.ofNat 16 (d.rbuf.b0.toNat + 256 * d.rbuf.b1.toNat)) d.rbuf.b2 d.rbuf.b3)) ∧
    (d.rcnt.toNat < 4 → decodeResponse d = .error .shortInput))

/-- A decoder evaluation of a command without a reply or of a reserved code is F_NO_DECODE_PATH, and one with too few bytes F_SHORT_INPUT;
no output is written. Every other evaluation gives a result (R171, R172, R178). -/
def Obligations.DecoderFaultsExactlyOnMisuse : Prop :=
  ∀ (s : State) (d : DecIn) (rest : List Event), s.inputs = .evalDecoder d :: rest →
    ((d.dcmd ≠ 7 ∧ d.dcmd ≠ 8 ∧ d.dcmd ≠ 9) →
      step s = .next { s with inputs := rest, decIn := d, fault := { s.fault with noDecodePath := true } }) ∧
    ((d.dcmd = 7 ∧ d.rcnt.toNat < 1) ∨ (d.dcmd = 8 ∧ d.rcnt.toNat < 2) ∨ (d.dcmd = 9 ∧ d.rcnt.toNat < 4) →
      step s = .next { s with inputs := rest, decIn := d, fault := { s.fault with shortInput := true } }) ∧
    ((d.dcmd = 7 ∧ 1 ≤ d.rcnt.toNat) ∨ (d.dcmd = 8 ∧ 2 ≤ d.rcnt.toNat) ∨ (d.dcmd = 9 ∧ 4 ≤ d.rcnt.toNat) →
      ∃ res, step s = .next { s with inputs := rest, decIn := d, dec := some res })

/-- R173: bytes at RLEN or above, and a count above RLEN, do not affect the result. -/
def Obligations.DecoderReadsExactlyTheReplyBytes : Prop :=
  ∀ (d d' : DecIn), d.dcmd = d'.dcmd → rlenOfCode d.dcmd ≤ d.rcnt.toNat → rlenOfCode d.dcmd ≤ d'.rcnt.toNat →
    d.rbuf.b0 = d'.rbuf.b0 → (2 ≤ rlenOfCode d.dcmd → d.rbuf.b1 = d'.rbuf.b1) →
    (4 ≤ rlenOfCode d.dcmd → d.rbuf.b2 = d'.rbuf.b2 ∧ d.rbuf.b3 = d'.rbuf.b3) →
    decodeResponse d = decodeResponse d'

/-- R177: a packed-BCD byte with decimal nibbles reads as its two digits, and its value is `10*b[7:4] + b[3:0]`. For other nibbles the digit is free (log 18). -/
def Obligations.PackedBcdReadsAsItsDigits : Prop :=
  ∀ (tens units : Nat), tens ≤ 9 → units ≤ 9 →
    bcdDigits (BitVec.ofNat 8 (16 * tens + units)) = [tens, units] ∧ bcdDecimal (BitVec.ofNat 8 (16 * tens + units)) = 10 * tens + units

/-! ### The Exchange Sequencer -/

/-- R195, R196, R197, R194: a write completion ends the exchange with WRITE_FAILURE(w), ends it with OK(none), or issues RxRead of exactly rlen bytes with the
TIMEOUT of the request; a count above the frame is F_TRANSPORT_CONTRACT. That the first w bytes count as handed over, and
the record of them, is log 15 and log 24 (R59; R195 says they may have reached the bus). -/
def Obligations.WriteCompletionFollowsTheTable : Prop :=
  ∀ (s : State) (w t : Nat) (l : Latch) (rest : List Event), s.inputs = .wdone w :: rest →
    s.phase = .writing → s.isOpen = true → s.cur = some l → s.curTimeout = some t →
    (l.flen < w → step s = .next { s with inputs := rest, fault := { s.fault with transportContract := true } }) ∧
    (w < l.flen → step s = .next { s with
      inputs := rest, wire := s.wire ++ l.frame.take w, outcome := some (.writeFailure w), phase := .idle, cur := none, curTimeout := none }) ∧
    (w = l.flen → l.rlen = 0 → step s = .next { s with
      inputs := rest, wire := s.wire ++ l.frame.take w, outcome := some (.ok none), phase := .idle, cur := none, curTimeout := none }) ∧
    (w = l.flen → 0 < l.rlen → step s = .next { s with
      inputs := rest, wire := s.wire ++ l.frame.take w, phase := .reading, calls := .rxRead l.rlen t :: s.calls })

/-- R201, R199: a read completion with fewer bytes than asked ends the exchange with READ_SHORTFALL(c) and sets STREAM_SUSPECT, the decoder not evaluated; one with more is F_TRANSPORT_CONTRACT. -/
def Obligations.ShortAndLongReadsFollowTheTable : Prop :=
  ∀ (s : State) (bytes : List Byte) (l : Latch) (rest : List Event), s.inputs = .rdone bytes :: rest →
    s.phase = .reading → s.isOpen = true → s.cur = some l →
    (l.rlen < bytes.length → step s = .next { s with inputs := rest, fault := { s.fault with transportContract := true } }) ∧
    (bytes.length < l.rlen → step s = .next { s with
      inputs := rest, outcome := some (.readShortfall bytes.length), suspect := true, phase := .idle, cur := none, curTimeout := none })

/-- R200: a whole reply is decoded and ends the exchange with OK(result); in a state the machine can be in, the evaluation cannot fault. -/
def Obligations.WholeReplyEndsTheExchangeWithItsResult : Prop :=
  ∀ (s : State) (bytes : List Byte) (l : Latch) (rest : List Event), s.Inv → s.inputs = .rdone bytes :: rest →
    s.phase = .reading → s.cur = some l → bytes.length = l.rlen →
    ∃ res, decodeResponse { dcmd := l.cmd, rbuf := s.decIn.rbuf.load bytes, rcnt := BitVec.ofNat 3 bytes.length } = .ok res ∧
      step s = .next { s with
        inputs := rest, decIn := { dcmd := l.cmd, rbuf := s.decIn.rbuf.load bytes, rcnt := BitVec.ofNat 3 bytes.length }, dec := some res
        outcome := some (.ok (some res)), phase := .idle, cur := none, curTimeout := none }

/-- R198: `close` during an exchange abandons it; in IDLE it clears OPEN and nothing else; a completion that comes in IDLE, as that of an abandoned call does, has no
step. `open` in IDLE with OPEN = 0 sets OPEN (R205). -/
def Obligations.OpenAndCloseFollowTheTable : Prop :=
  ∀ (s : State) (rest : List Event),
    (s.inputs = .closeTransport :: rest → s.isOpen = true → s.phase ≠ .idle → step s = .next { s with
      inputs := rest, isOpen := false, suspect := true, outcome := none, phase := .idle, cur := none, curTimeout := none }) ∧
    (s.inputs = .closeTransport :: rest → s.isOpen = true → s.phase = .idle → step s = .next { s with inputs := rest, isOpen := false }) ∧
    (s.phase = .idle → (∃ w, s.inputs = .wdone w :: rest) ∨ (∃ bytes, s.inputs = .rdone bytes :: rest) → step s = .fault .completionHasNoStep) ∧
    (s.inputs = .openTransport :: rest → s.isOpen = false → s.phase = .idle → step s = .next { s with inputs := rest, isOpen := true })

/-- R205: a step has no transition exactly where the table lists none: no event, a completion outside its phase, an `open` while open, a `close` while closed. No
step is ever refused: a word that decodes to no row names no call and is never presented (log 7). -/
def Obligations.StepIsStuckExactlyWhereTheTableListsNothing : Prop :=
  (∀ (s : State) (r : Refusal), step s ≠ .refused r) ∧
  ∀ (s : State), s.Inv →
    ((∃ f, step s = .fault f) ↔
      s.inputs = [] ∨
      (∃ w rest, s.inputs = .wdone w :: rest ∧ s.phase ≠ .writing) ∨
      (∃ bytes rest, s.inputs = .rdone bytes :: rest ∧ s.phase ≠ .reading) ∨
      (∃ rest, s.inputs = .openTransport :: rest ∧ s.isOpen = true) ∨
      (∃ rest, s.inputs = .closeTransport :: rest ∧ s.isOpen = false))

/-- R205, R206: the phase moves only as the table lists, and a transport call is issued exactly when the phase enters WRITING or READING; at most one a step. -/
def Obligations.PhaseMovesOnlyAsTheTableLists : Prop :=
  ∀ (s t : State), step s = .next t →
    (t.calls = s.calls ∧ (t.phase = s.phase ∨ t.phase = .idle)) ∨
    (s.phase = .idle ∧ t.phase = .writing ∧ ∃ frame n, t.calls = .txWrite frame n :: s.calls) ∨
    (s.phase = .writing ∧ t.phase = .reading ∧ ∃ n timeout, t.calls = .rxRead n timeout :: s.calls)

/-- R29, R210: OUTCOME changes only when an exchange ends or by a power-on reset: an admitted request that fails validation, a completion that ends the exchange, a
`close` during one, a power-on reset; so never in a step that leaves an exchange in flight. -/
def Obligations.OutcomeChangesOnlyByItsCauses : Prop :=
  ∀ (s t : State) (e : Event) (rest : List Event), s.inputs = e :: rest → step s = .next t →
    (t.phase ≠ .idle → t.outcome = s.outcome) ∧
    (t.outcome ≠ s.outcome →
      (((∃ r n, e = .req r n) ∨ (∃ i n, e = .row i n ∧ i.isRequest = true)) ∧ s.phase = .idle ∧ s.isOpen = true ∧
        ∃ v, v ≠ 0 ∧ t.outcome = some (.validationError v)) ∨
      (∃ w, e = .wdone w ∧ s.phase = .writing ∧ (t.outcome = some (.writeFailure w) ∨ t.outcome = some (.ok none))) ∨
      (∃ bytes, e = .rdone bytes ∧ s.phase = .reading ∧
        (t.outcome = some (.readShortfall bytes.length) ∨ ∃ res, t.outcome = some (.ok (some res)))) ∨
      (e = .closeTransport ∧ s.phase ≠ .idle ∧ t.outcome = none) ∨
      (e = .powerOn ∧ t.outcome = none))

/-- The whole of an exchange with a reply (R192-R200): a valid query, a full write and a full reply give OK with the reply's value, the frame on the wire, exactly one
TxWrite and one RxRead, and nothing else of the machine changed. -/
def Obligations.QueryExchangeReturnsTheDecodedReply : Prop :=
  ∀ (s : State) (r : Req) (t : Nat) (frame bytes : List Byte) (rest : List Event),
    s.cfg.Admitted → s.phase = .idle → s.isOpen = true → encodeRequest s.cfg r = .ok frame → 7 ≤ r.cmd.toNat →
    bytes.length = rlenOfCode r.cmd → s.inputs = .req r t :: .wdone frame.length :: .rdone bytes :: rest →
    ∃ (u : State) (res : DecResult), Host.Core.run Sys2Proof.core 3 s = .next u ∧ u.outcome = some (.ok (some res)) ∧
      (r.cmd = 7 → ∃ b0, bytes = [b0] ∧ res = .limitStatus (BitVec.ofNat 2 (b0.toNat % 4))) ∧
      (r.cmd = 8 → ∃ b0 b1, bytes = [b0, b1] ∧ res = .raw16 (BitVec.ofNat 16 (b0.toNat + 256 * b1.toNat))) ∧
      (r.cmd = 9 → ∃ b0 b1 b2 b3, bytes = [b0, b1, b2, b3] ∧ res = .firmware (BitVec.ofNat 16 (b0.toNat + 256 * b1.toNat)) b2 b3) ∧
      u.wire = s.wire ++ frame ∧ u.calls = .rxRead (rlenOfCode r.cmd) t :: .txWrite frame frame.length :: s.calls ∧
      u.phase = .idle ∧ u.cur = none ∧ u.isOpen = true ∧ u.suspect = s.suspect ∧ u.fault = s.fault ∧ u.cfg = s.cfg ∧ u.inputs = rest

/-- The whole of an exchange without a reply (R192-R196): a valid request and a full write give OK(none); no RxRead is issued. -/
def Obligations.CommandExchangeEndsWithoutARead : Prop :=
  ∀ (s : State) (r : Req) (t : Nat) (frame : List Byte) (rest : List Event),
    s.phase = .idle → s.isOpen = true → encodeRequest s.cfg r = .ok frame → r.cmd.toNat ≤ 6 →
    s.inputs = .req r t :: .wdone frame.length :: rest →
    ∃ u : State, Host.Core.run Sys2Proof.core 2 s = .next u ∧ u.outcome = some (.ok none) ∧
      u.wire = s.wire ++ frame ∧ u.calls = .txWrite frame frame.length :: s.calls ∧
      u.phase = .idle ∧ u.cur = none ∧ u.isOpen = true ∧ u.suspect = s.suspect ∧ u.fault = s.fault ∧ u.cfg = s.cfg ∧ u.inputs = rest

/-! ### The whole machine -/

/-- Every instruction has a next state, in every state and for every operand: no row stops the machine (R12, R191, R192). -/
def Obligations.EveryInstructionAnswersANextState : Prop :=
  ∀ (i : Instr) (s : State), ∃ t, exec i s = .next t

/-- The frame of every instruction (R33, R120, R170): a request writes only the encoder's ports, CUR, PHASE, OUTCOME, FAULT and the call history; a reply only the decoder's ports. -/
def Obligations.InstructionsChangeOnlyTheirOwnFields : Prop :=
  ∀ (i : Instr) (s t : State), exec i s = .next t →
    (i.isRequest = true →
      t = { s with encIn := t.encIn, enc := t.enc, cur := t.cur, curTimeout := t.curTimeout, phase := t.phase,
                   outcome := t.outcome, fault := t.fault, calls := t.calls }) ∧
    (i.isRequest = false → t = { s with decIn := t.decIn, dec := t.dec })

/-- A step runs the row it is presented, and a table word placed by the host's function presents the row it decodes to, under the machine's own configuration, so that the
very next step runs it. A word that is no row presents nothing. How a row is presented is the model's choice (log 7, log 8), and so is that the
event drives TIMEOUT whatever comes of the row (log 12). -/
def Obligations.StepRunsTheDecodedRow : Prop :=
  (∀ (s : State) (i : Instr) (t : Nat) (rest : List Event), s.inputs = .row i t :: rest →
    step s = exec i { s with inputs := rest, timeoutIn := t }) ∧
  (∀ (s : State) (nbits w : Nat) (i : Instr), decodeWord s.cfg (bytesOfWord (nbits / 8) w) = .ok i →
    step (s.withFetchWord nbits w) = exec i { s with isOpen := true, phase := .idle, cur := none, curTimeout := none }) ∧
  (∀ (s : State) (nbits w : Nat) (i : Instr), s.cfg = Config.pgk → decodeTableWord nbits w = some i →
    step (s.withFetchWord nbits w) = exec i { s with isOpen := true, phase := .idle, cur := none, curTimeout := none }) ∧
  (∀ (s : State) (nbits w : Nat) (why : Reject), decodeWord s.cfg (bytesOfWord (nbits / 8) w) = .error why →
    (s.withFetchWord nbits w).inputs = s.inputs)

/-- R209: a request on the ports runs its row: its effect is that of the row with the request's operands, the ports driven with it. That the event drives the ports
and TIMEOUT is log 12. -/
def Obligations.StepRunsTheRequestedRow : Prop :=
  ∀ (s : State) (r : Req) (t : Nat) (rest : List Event), s.inputs = .req r t :: rest →
    (∀ i, Instr.ofReq r = some i → step s = exec i { s with inputs := rest, encIn := r, timeoutIn := t }) ∧
    step s = request r { s with inputs := rest, encIn := r, timeoutIn := t }

/-- Every step keeps the invariant of the machine's states (Safety.lean). -/
def Obligations.EveryStepKeepsTheInvariant : Prop :=
  ∀ (s t : State), s.Inv → step s = .next t → t.Inv

/-- The invariant holds after reset. That P-GK is admitted is the model's choice of configuration (log 1, log 2). -/
def Obligations.InvariantHoldsAtReset : Prop := State.reset.Inv

/-- R32, R233: no step but a power-on reset removes a name from FAULT. -/
def Obligations.FaultNamesAreSticky : Prop :=
  ∀ (s t : State), step s = .next t → (∀ rest, s.inputs ≠ .powerOn :: rest) → s.fault.subset t.fault

/-- R232: each fault name is added only by its cause; the sequencer itself never misuses the decoder (R200). -/
def Obligations.FaultNamesAreAddedOnlyByTheirCause : Prop :=
  ∀ (s t : State) (e : Event) (rest : List Event), s.Inv → s.inputs = e :: rest → step s = .next t →
    (t.fault.busy = true → s.fault.busy = true ∨ (s.phase ≠ .idle ∧ ((∃ r n, e = .req r n) ∨ (∃ i n, e = .row i n ∧ i.isRequest = true)))) ∧
    (t.fault.notOpen = true → s.fault.notOpen = true ∨ (s.isOpen = false ∧ ((∃ r n, e = .req r n) ∨ (∃ i n, e = .row i n ∧ i.isRequest = true)))) ∧
    (t.fault.transportContract = true → s.fault.transportContract = true ∨
      (∃ l, s.cur = some l ∧ ((∃ w, e = .wdone w ∧ l.flen < w) ∨ (∃ bs, e = .rdone bs ∧ l.rlen < bs.length)))) ∧
    (t.fault.noDecodePath = true → s.fault.noDecodePath = true ∨ (∃ d, e = .evalDecoder d ∧ rlenOfCode d.dcmd = 0)) ∧
    (t.fault.shortInput = true → s.fault.shortInput = true ∨ (∃ d, e = .evalDecoder d ∧ d.rcnt.toNat < rlenOfCode d.dcmd)) ∧
    (t.fault.noValue = true → s.fault.noValue = true ∨ (∃ p, e = .read p ∧ portValue p s = none))

/-- R31: STREAM_SUSPECT is set only by an abandoned exchange or a read shortfall, and only a power-on reset clears it. -/
def Obligations.StreamSuspectIsSetOnlyByItsCausesAndKept : Prop :=
  ∀ (s t : State) (e : Event) (rest : List Event), s.inputs = e :: rest → step s = .next t →
    (s.suspect = true → e ≠ .powerOn → t.suspect = true) ∧
    (s.suspect = false → t.suspect = true →
      (e = .closeTransport ∧ s.phase ≠ .idle) ∨
      (∃ bs l, e = .rdone bs ∧ s.phase = .reading ∧ s.cur = some l ∧ bs.length < l.rlen))

/-- R254: no step changes the configuration. R30: OPEN changes only by `open`, `close` and power-on reset. -/
def Obligations.ConfigurationIsFixedAndOpenIsTheCallers : Prop :=
  ∀ (s t : State) (e : Event) (rest : List Event), s.inputs = e :: rest → step s = .next t →
    t.cfg = s.cfg ∧ (t.isOpen ≠ s.isOpen → e = .openTransport ∨ e = .closeTransport ∨ e = .powerOn)

/-- R35, R204: an exchange reads nothing left by an earlier one except OPEN: states that agree on the configuration, the sequencer's control, OUTCOME, the observations and the schedule
step alike on all of these, whatever STREAM_SUSPECT, FAULT, the ports and the last read value hold. -/
def Obligations.MarksAndPortsNeverChangeAnExchange : Prop :=
  ∀ (s s' : State), s.cfg = s'.cfg → s.phase = s'.phase → s.cur = s'.cur → s.curTimeout = s'.curTimeout → s.isOpen = s'.isOpen →
    s.outcome = s'.outcome → s.calls = s'.calls → s.wire = s'.wire → s.inputs = s'.inputs →
    (∃ f, step s = .fault f ∧ step s' = .fault f) ∨ (∃ r, step s = .refused r ∧ step s' = .refused r) ∨
    (∃ t t', step s = .next t ∧ step s' = .next t' ∧ t.cfg = t'.cfg ∧ t.phase = t'.phase ∧ t.cur = t'.cur ∧
      t.curTimeout = t'.curTimeout ∧ t.isOpen = t'.isOpen ∧ t.outcome = t'.outcome ∧ t.calls = t'.calls ∧ t.wire = t'.wire ∧ t.inputs = t'.inputs)

/-- R60, R203: what a step hands to the wire is a leading part of the frame in flight, and only a write completion hands over anything. -/
def Obligations.WireGrowsOnlyByTheFrameInFlight : Prop :=
  ∀ (s t : State) (e : Event) (rest : List Event), s.inputs = e :: rest → step s = .next t →
    t.wire = s.wire ∨ (∃ w l, e = .wdone w ∧ s.phase = .writing ∧ s.cur = some l ∧ w ≤ l.flen ∧ t.wire = s.wire ++ l.frame.take w ∧ t.phase ≠ .writing)

/-- R120: an encoder evaluation alone writes the encoder's ports and nothing else, in every state. -/
def Obligations.EncoderEvaluationWritesOnlyItsPorts : Prop :=
  ∀ (s : State) (r : Req) (rest : List Event), s.inputs = .evalEncoder r :: rest →
    step s = .next { s with inputs := rest, encIn := r, enc := some (encOut s.cfg r) }

/-- R22, R26, R29, R232: a read of a port obtains its value, or, where it holds none, is F_NO_VALUE; and which port holds which value: the encoder's after its evaluation,
OUTCOME, and for each decode path its own outputs and no others. -/
def Obligations.ReadingNoValueIsAFault : Prop :=
  ∀ (s : State) (p : Port) (rest : List Event), s.inputs = .read p :: rest →
    (portValue p s = none → step s = .next { s with inputs := rest, fault := { s.fault with noValue := true } }) ∧
    (∀ v, portValue p s = some v → step s = .next { s with inputs := rest, readBack := some v }) ∧
    (s.enc = none → ∀ i, portValue (.frame i) s = none ∧ portValue .flen s = none ∧ portValue .rleno s = none ∧ portValue .verr s = none) ∧
    (∀ e, s.enc = some e →
      (∀ i b, e.frame[i]? = some b → portValue (.frame i) s = some (.bits b.toNat)) ∧
      (∀ i, e.frame.length ≤ i → portValue (.frame i) s = none) ∧
      portValue .flen s = some (.bits e.flen.toNat) ∧ portValue .rleno s = some (.bits e.rleno.toNat) ∧ portValue .verr s = some (.bits e.verr.toNat)) ∧
    (s.outcome = none → portValue .outcome s = none) ∧
    (∀ o, s.outcome = some o → portValue .outcome s = some (.outcome o)) ∧
    (s.dec = none → portValue .lstat s = none ∧ portValue .vraw s = none ∧ portValue .fwPid s = none ∧ portValue .fwMinor s = none ∧
      portValue .fwMajor s = none) ∧
    (∀ l, s.dec = some (.limitStatus l) → portValue .lstat s = some (.bits l.toNat) ∧ portValue .vraw s = none ∧ portValue .fwPid s = none ∧
      portValue .fwMinor s = none ∧ portValue .fwMajor s = none) ∧
    (∀ v, s.dec = some (.raw16 v) → portValue .lstat s = none ∧ portValue .vraw s = some (.bits v.toNat) ∧ portValue .fwPid s = none ∧
      portValue .fwMinor s = none ∧ portValue .fwMajor s = none) ∧
    (∀ pid minor major, s.dec = some (.firmware pid minor major) → portValue .lstat s = none ∧ portValue .vraw s = none ∧
      portValue .fwPid s = some (.bits pid.toNat) ∧ portValue .fwMinor s = some (.bits minor.toNat) ∧ portValue .fwMajor s = some (.bits major.toNat))

/-- R264: the run is over in IDLE, closed, with nothing left but late completions of the transport; then no decoder output and no CUR holds a value, no step happens, and the
end is good exactly when FAULT is empty. That a pending power-on reset counts as the caller's is log 23. -/
def Obligations.AfterTheRunTheDecoderOutputsHoldNoValue : Prop :=
  (∀ s : State, s.runOver ↔ s.phase = .idle ∧ s.isOpen = false ∧ ∀ e ∈ s.inputs, (∃ w, e = .wdone w) ∨ ∃ bytes, e = .rdone bytes) ∧
  ∀ s : State, s.Inv → s.runOver →
    s.cur = none ∧ portValue .lstat s = none ∧ portValue .vraw s = none ∧ portValue .fwPid s = none ∧ portValue .fwMinor s = none ∧
    portValue .fwMajor s = none ∧ (∃ f, step s = .fault f) ∧ (s.goodEnd ↔ ∀ n : FaultName, s.fault.mem n = false)

/-- R250: a power-on reset sets every field of R37 and leaves the configuration. That the driven inputs, the schedule and the observations stay is the model's choice (log 23). -/
def Obligations.PowerOnResetSetsEveryField : Prop :=
  ∀ (s : State) (rest : List Event), s.inputs = .powerOn :: rest →
    step s = .next { s with
      inputs := rest, phase := .idle, isOpen := false, suspect := false
      fault := { busy := false, notOpen := false, transportContract := false, noDecodePath := false, shortInput := false, noValue := false }
      cur := none, curTimeout := none, outcome := none, enc := none, dec := none }

/-- R37: the fields of State.reset that the rule gives a value or no value. -/
def Obligations.StateAfterReset : Prop :=
  State.reset.phase = .idle ∧ State.reset.cur = none ∧ State.reset.outcome = none ∧ State.reset.isOpen = false ∧
  State.reset.suspect = false ∧ (∀ n : FaultName, State.reset.fault.mem n = false) ∧ State.reset.enc = none ∧ State.reset.dec = none ∧
  State.reset.inputs = []
end

