-- ==== Sys2Proof/Laws/Flags.lean ====
section
/-! SUPPORT. Each VERR bit, when VERR is zero, and membership in FAULT. -/

namespace Sys2Proof.Machine

@[simp] theorem FaultSet.mem_empty (n : FaultName) : FaultSet.empty.mem n = false := by cases n <;> rfl

@[simp] theorem FaultSet.mem_insert (f : FaultSet) (n m : FaultName) :
    (f.insert n).mem m = (decide (m = n) || f.mem m) := by
  cases n <;> cases m <;> simp [FaultSet.insert, FaultSet.mem]

theorem FaultSet.subset_refl (f : FaultSet) : f.subset f := fun _ h => h

theorem FaultSet.subset_insert (f : FaultSet) (n : FaultName) : f.subset (f.insert n) := by
  intro m h; simp [h]

theorem verrMask_bits : ∀ b0 b1 b2 b3 b4 b5 b6 b7 b8 : Bool,
    (verrMask b0 b1 b2 b3 b4 b5 b6 b7 b8).getLsbD 0 = b0 ∧ (verrMask b0 b1 b2 b3 b4 b5 b6 b7 b8).getLsbD 1 = b1 ∧
    (verrMask b0 b1 b2 b3 b4 b5 b6 b7 b8).getLsbD 2 = b2 ∧ (verrMask b0 b1 b2 b3 b4 b5 b6 b7 b8).getLsbD 3 = b3 ∧
    (verrMask b0 b1 b2 b3 b4 b5 b6 b7 b8).getLsbD 4 = b4 ∧ (verrMask b0 b1 b2 b3 b4 b5 b6 b7 b8).getLsbD 5 = b5 ∧
    (verrMask b0 b1 b2 b3 b4 b5 b6 b7 b8).getLsbD 6 = b6 ∧ (verrMask b0 b1 b2 b3 b4 b5 b6 b7 b8).getLsbD 7 = b7 ∧
    (verrMask b0 b1 b2 b3 b4 b5 b6 b7 b8).getLsbD 8 = b8 :=
  fun b0 b1 b2 b3 b4 b5 b6 b7 b8 =>
    have h (k : Nat) : (verrMask b0 b1 b2 b3 b4 b5 b6 b7 b8).getLsbD k = [b0, b1, b2, b3, b4, b5, b6, b7, b8].getD k false :=
      BitVec.getLsbD_ofBoolListLE
    ⟨h 0, h 1, h 2, h 3, h 4, h 5, h 6, h 7, h 8⟩

theorem verrMask_eq_zero_iff : ∀ b0 b1 b2 b3 b4 b5 b6 b7 b8 : Bool, verrMask b0 b1 b2 b3 b4 b5 b6 b7 b8 = 0 ↔
    b0 = false ∧ b1 = false ∧ b2 = false ∧ b3 = false ∧ b4 = false ∧ b5 = false ∧ b6 = false ∧ b7 = false ∧ b8 = false := by
  intro b0 b1 b2 b3 b4 b5 b6 b7 b8
  constructor
  · intro h
    have hb := verrMask_bits b0 b1 b2 b3 b4 b5 b6 b7 b8
    simp only [h] at hb
    obtain ⟨h0, h1, h2, h3, h4, h5, h6, h7, h8⟩ := hb
    exact ⟨h0.symm, h1.symm, h2.symm, h3.symm, h4.symm, h5.symm, h6.symm, h7.symm, h8.symm⟩
  · rintro ⟨rfl, rfl, rfl, rfl, rfl, rfl, rfl, rfl, rfl⟩
    rfl

variable (cfg : Config) (r : Req)

theorem verr_bit0 : (verr cfg r).getLsbD 0 = cmdUndef r := (verrMask_bits _ _ _ _ _ _ _ _ _).1
theorem verr_bit1 : (verr cfg r).getLsbD 1 = bcastResp r := (verrMask_bits _ _ _ _ _ _ _ _ _).2.1
theorem verr_bit2 : (verr cfg r).getLsbD 2 = devRange r := (verrMask_bits _ _ _ _ _ _ _ _ _).2.2.1
theorem verr_bit3 : (verr cfg r).getLsbD 3 = pwm13Range r := (verrMask_bits _ _ _ _ _ _ _ _ _).2.2.2.1
theorem verr_bit4 : (verr cfg r).getLsbD 4 = pwm7Range r := (verrMask_bits _ _ _ _ _ _ _ _ _).2.2.2.2.1
theorem verr_bit5 : (verr cfg r).getLsbD 5 = dutyRange r := (verrMask_bits _ _ _ _ _ _ _ _ _).2.2.2.2.2.1
theorem verr_bit6 : (verr cfg r).getLsbD 6 = lvalRange r := (verrMask_bits _ _ _ _ _ _ _ _ _).2.2.2.2.2.2.1
theorem verr_bit7 : (verr cfg r).getLsbD 7 = lidInvalid cfg r := (verrMask_bits _ _ _ _ _ _ _ _ _).2.2.2.2.2.2.2.1
theorem verr_bit8 : (verr cfg r).getLsbD 8 = vidInvalid cfg r := (verrMask_bits _ _ _ _ _ _ _ _ _).2.2.2.2.2.2.2.2

/-! Each condition as a proposition, in the spec's numbers. -/

theorem cmdUndef_iff : cmdUndef r = true ↔ 10 ≤ r.cmd.toNat := decide_eq_true_iff
theorem bcastResp_iff : bcastResp r = true ↔ r.mode = .broadcast ∧ 0 < rlenOfCode r.cmd := decide_eq_true_iff
theorem devRange_iff : devRange r = true ↔ r.mode = .addressed ∧ 127 < r.dev.toNat := decide_eq_true_iff
theorem pwm13Range_iff : pwm13Range r = true ↔ (r.cmd = 1 ∨ r.cmd = 2) ∧ 3200 < r.pval.toNat := decide_eq_true_iff
theorem pwm7Range_iff : pwm7Range r = true ↔ (r.cmd = 3 ∨ r.cmd = 4) ∧ 127 < r.pval.toNat := decide_eq_true_iff
theorem dutyRange_iff : dutyRange r = true ↔ r.cmd = 5 ∧ 32 < r.pval.toNat := decide_eq_true_iff
theorem lvalRange_iff : lvalRange r = true ↔ r.cmd = 7 ∧ 16383 < r.pval.toNat := decide_eq_true_iff
theorem lidInvalid_iff : lidInvalid cfg r = true ↔ r.cmd = 7 ∧ cfg.limitIdValid r.pid = false := decide_eq_true_iff
theorem vidInvalid_iff : vidInvalid cfg r = true ↔ r.cmd = 8 ∧ cfg.varIdValid r.pid = false := decide_eq_true_iff

/-- VERR is 0 exactly when no condition holds. -/
theorem verr_eq_zero_iff : verr cfg r = 0 ↔
    cmdUndef r = false ∧ bcastResp r = false ∧ devRange r = false ∧ pwm13Range r = false ∧ pwm7Range r = false ∧
    dutyRange r = false ∧ lvalRange r = false ∧ lidInvalid cfg r = false ∧ vidInvalid cfg r = false :=
  verrMask_eq_zero_iff _ _ _ _ _ _ _ _ _

end Sys2Proof.Machine
end

