-- ==== Sys2Proof/Laws/State.lean ====
section
/-! SUPPORT. What each state update of Ops.lean and Events.lean does to each field, one lemma a field, so that no later proof unfolds a record update. -/

namespace Sys2Proof.Machine

variable (s : State)

@[simp] theorem raise_cfg (f : FaultName) : (raise f s).cfg = s.cfg := rfl
@[simp] theorem raise_encIn (f : FaultName) : (raise f s).encIn = s.encIn := rfl
@[simp] theorem raise_timeoutIn (f : FaultName) : (raise f s).timeoutIn = s.timeoutIn := rfl
@[simp] theorem raise_enc (f : FaultName) : (raise f s).enc = s.enc := rfl
@[simp] theorem raise_decIn (f : FaultName) : (raise f s).decIn = s.decIn := rfl
@[simp] theorem raise_dec (f : FaultName) : (raise f s).dec = s.dec := rfl
@[simp] theorem raise_phase (f : FaultName) : (raise f s).phase = s.phase := rfl
@[simp] theorem raise_cur (f : FaultName) : (raise f s).cur = s.cur := rfl
@[simp] theorem raise_curTimeout (f : FaultName) : (raise f s).curTimeout = s.curTimeout := rfl
@[simp] theorem raise_outcome (f : FaultName) : (raise f s).outcome = s.outcome := rfl
@[simp] theorem raise_isOpen (f : FaultName) : (raise f s).isOpen = s.isOpen := rfl
@[simp] theorem raise_suspect (f : FaultName) : (raise f s).suspect = s.suspect := rfl
@[simp] theorem raise_fault (f : FaultName) : (raise f s).fault = s.fault.insert f := rfl
@[simp] theorem raise_calls (f : FaultName) : (raise f s).calls = s.calls := rfl
@[simp] theorem raise_wire (f : FaultName) : (raise f s).wire = s.wire := rfl
@[simp] theorem raise_readBack (f : FaultName) : (raise f s).readBack = s.readBack := rfl
@[simp] theorem raise_inputs (f : FaultName) : (raise f s).inputs = s.inputs := rfl

@[simp] theorem evalEncoder_cfg (r : Req) : (evalEncoder r s).cfg = s.cfg := rfl
@[simp] theorem evalEncoder_encIn (r : Req) : (evalEncoder r s).encIn = r := rfl
@[simp] theorem evalEncoder_timeoutIn (r : Req) : (evalEncoder r s).timeoutIn = s.timeoutIn := rfl
@[simp] theorem evalEncoder_enc (r : Req) : (evalEncoder r s).enc = some (encOut s.cfg r) := rfl
@[simp] theorem evalEncoder_decIn (r : Req) : (evalEncoder r s).decIn = s.decIn := rfl
@[simp] theorem evalEncoder_dec (r : Req) : (evalEncoder r s).dec = s.dec := rfl
@[simp] theorem evalEncoder_phase (r : Req) : (evalEncoder r s).phase = s.phase := rfl
@[simp] theorem evalEncoder_cur (r : Req) : (evalEncoder r s).cur = s.cur := rfl
@[simp] theorem evalEncoder_curTimeout (r : Req) : (evalEncoder r s).curTimeout = s.curTimeout := rfl
@[simp] theorem evalEncoder_outcome (r : Req) : (evalEncoder r s).outcome = s.outcome := rfl
@[simp] theorem evalEncoder_isOpen (r : Req) : (evalEncoder r s).isOpen = s.isOpen := rfl
@[simp] theorem evalEncoder_suspect (r : Req) : (evalEncoder r s).suspect = s.suspect := rfl
@[simp] theorem evalEncoder_fault (r : Req) : (evalEncoder r s).fault = s.fault := rfl
@[simp] theorem evalEncoder_calls (r : Req) : (evalEncoder r s).calls = s.calls := rfl
@[simp] theorem evalEncoder_wire (r : Req) : (evalEncoder r s).wire = s.wire := rfl
@[simp] theorem evalEncoder_readBack (r : Req) : (evalEncoder r s).readBack = s.readBack := rfl
@[simp] theorem evalEncoder_inputs (r : Req) : (evalEncoder r s).inputs = s.inputs := rfl

@[simp] theorem driveDecoder_cfg (d : DecIn) : (driveDecoder d s).cfg = s.cfg := rfl
@[simp] theorem driveDecoder_encIn (d : DecIn) : (driveDecoder d s).encIn = s.encIn := rfl
@[simp] theorem driveDecoder_timeoutIn (d : DecIn) : (driveDecoder d s).timeoutIn = s.timeoutIn := rfl
@[simp] theorem driveDecoder_enc (d : DecIn) : (driveDecoder d s).enc = s.enc := rfl
@[simp] theorem driveDecoder_decIn (d : DecIn) : (driveDecoder d s).decIn = d := rfl
@[simp] theorem driveDecoder_dec (d : DecIn) : (driveDecoder d s).dec = s.dec := rfl
@[simp] theorem driveDecoder_phase (d : DecIn) : (driveDecoder d s).phase = s.phase := rfl
@[simp] theorem driveDecoder_cur (d : DecIn) : (driveDecoder d s).cur = s.cur := rfl
@[simp] theorem driveDecoder_curTimeout (d : DecIn) : (driveDecoder d s).curTimeout = s.curTimeout := rfl
@[simp] theorem driveDecoder_outcome (d : DecIn) : (driveDecoder d s).outcome = s.outcome := rfl
@[simp] theorem driveDecoder_isOpen (d : DecIn) : (driveDecoder d s).isOpen = s.isOpen := rfl
@[simp] theorem driveDecoder_suspect (d : DecIn) : (driveDecoder d s).suspect = s.suspect := rfl
@[simp] theorem driveDecoder_fault (d : DecIn) : (driveDecoder d s).fault = s.fault := rfl
@[simp] theorem driveDecoder_calls (d : DecIn) : (driveDecoder d s).calls = s.calls := rfl
@[simp] theorem driveDecoder_wire (d : DecIn) : (driveDecoder d s).wire = s.wire := rfl
@[simp] theorem driveDecoder_readBack (d : DecIn) : (driveDecoder d s).readBack = s.readBack := rfl
@[simp] theorem driveDecoder_inputs (d : DecIn) : (driveDecoder d s).inputs = s.inputs := rfl

@[simp] theorem writeDecoded_cfg (r : DecResult) : (writeDecoded r s).cfg = s.cfg := rfl
@[simp] theorem writeDecoded_encIn (r : DecResult) : (writeDecoded r s).encIn = s.encIn := rfl
@[simp] theorem writeDecoded_timeoutIn (r : DecResult) : (writeDecoded r s).timeoutIn = s.timeoutIn := rfl
@[simp] theorem writeDecoded_enc (r : DecResult) : (writeDecoded r s).enc = s.enc := rfl
@[simp] theorem writeDecoded_decIn (r : DecResult) : (writeDecoded r s).decIn = s.decIn := rfl
@[simp] theorem writeDecoded_dec (r : DecResult) : (writeDecoded r s).dec = some r := rfl
@[simp] theorem writeDecoded_phase (r : DecResult) : (writeDecoded r s).phase = s.phase := rfl
@[simp] theorem writeDecoded_cur (r : DecResult) : (writeDecoded r s).cur = s.cur := rfl
@[simp] theorem writeDecoded_curTimeout (r : DecResult) : (writeDecoded r s).curTimeout = s.curTimeout := rfl
@[simp] theorem writeDecoded_outcome (r : DecResult) : (writeDecoded r s).outcome = s.outcome := rfl
@[simp] theorem writeDecoded_isOpen (r : DecResult) : (writeDecoded r s).isOpen = s.isOpen := rfl
@[simp] theorem writeDecoded_suspect (r : DecResult) : (writeDecoded r s).suspect = s.suspect := rfl
@[simp] theorem writeDecoded_fault (r : DecResult) : (writeDecoded r s).fault = s.fault := rfl
@[simp] theorem writeDecoded_calls (r : DecResult) : (writeDecoded r s).calls = s.calls := rfl
@[simp] theorem writeDecoded_wire (r : DecResult) : (writeDecoded r s).wire = s.wire := rfl
@[simp] theorem writeDecoded_readBack (r : DecResult) : (writeDecoded r s).readBack = s.readBack := rfl
@[simp] theorem writeDecoded_inputs (r : DecResult) : (writeDecoded r s).inputs = s.inputs := rfl

@[simp] theorem finish_cfg (o : ExchangeOutcome) : (finish o s).cfg = s.cfg := rfl
@[simp] theorem finish_encIn (o : ExchangeOutcome) : (finish o s).encIn = s.encIn := rfl
@[simp] theorem finish_timeoutIn (o : ExchangeOutcome) : (finish o s).timeoutIn = s.timeoutIn := rfl
@[simp] theorem finish_enc (o : ExchangeOutcome) : (finish o s).enc = s.enc := rfl
@[simp] theorem finish_decIn (o : ExchangeOutcome) : (finish o s).decIn = s.decIn := rfl
@[simp] theorem finish_dec (o : ExchangeOutcome) : (finish o s).dec = s.dec := rfl
@[simp] theorem finish_phase (o : ExchangeOutcome) : (finish o s).phase = .idle := rfl
@[simp] theorem finish_cur (o : ExchangeOutcome) : (finish o s).cur = none := rfl
@[simp] theorem finish_curTimeout (o : ExchangeOutcome) : (finish o s).curTimeout = none := rfl
@[simp] theorem finish_outcome (o : ExchangeOutcome) : (finish o s).outcome = some o := rfl
@[simp] theorem finish_isOpen (o : ExchangeOutcome) : (finish o s).isOpen = s.isOpen := rfl
@[simp] theorem finish_suspect (o : ExchangeOutcome) : (finish o s).suspect = s.suspect := rfl
@[simp] theorem finish_fault (o : ExchangeOutcome) : (finish o s).fault = s.fault := rfl
@[simp] theorem finish_calls (o : ExchangeOutcome) : (finish o s).calls = s.calls := rfl
@[simp] theorem finish_wire (o : ExchangeOutcome) : (finish o s).wire = s.wire := rfl
@[simp] theorem finish_readBack (o : ExchangeOutcome) : (finish o s).readBack = s.readBack := rfl
@[simp] theorem finish_inputs (o : ExchangeOutcome) : (finish o s).inputs = s.inputs := rfl

@[simp] theorem rejectRequest_cfg (v : BitVec 9) : (rejectRequest v s).cfg = s.cfg := rfl
@[simp] theorem rejectRequest_encIn (v : BitVec 9) : (rejectRequest v s).encIn = s.encIn := rfl
@[simp] theorem rejectRequest_timeoutIn (v : BitVec 9) : (rejectRequest v s).timeoutIn = s.timeoutIn := rfl
@[simp] theorem rejectRequest_enc (v : BitVec 9) : (rejectRequest v s).enc = s.enc := rfl
@[simp] theorem rejectRequest_decIn (v : BitVec 9) : (rejectRequest v s).decIn = s.decIn := rfl
@[simp] theorem rejectRequest_dec (v : BitVec 9) : (rejectRequest v s).dec = s.dec := rfl
@[simp] theorem rejectRequest_phase (v : BitVec 9) : (rejectRequest v s).phase = s.phase := rfl
@[simp] theorem rejectRequest_cur (v : BitVec 9) : (rejectRequest v s).cur = s.cur := rfl
@[simp] theorem rejectRequest_curTimeout (v : BitVec 9) : (rejectRequest v s).curTimeout = s.curTimeout := rfl
@[simp] theorem rejectRequest_outcome (v : BitVec 9) : (rejectRequest v s).outcome = some (.validationError v) := rfl
@[simp] theorem rejectRequest_isOpen (v : BitVec 9) : (rejectRequest v s).isOpen = s.isOpen := rfl
@[simp] theorem rejectRequest_suspect (v : BitVec 9) : (rejectRequest v s).suspect = s.suspect := rfl
@[simp] theorem rejectRequest_fault (v : BitVec 9) : (rejectRequest v s).fault = s.fault := rfl
@[simp] theorem rejectRequest_calls (v : BitVec 9) : (rejectRequest v s).calls = s.calls := rfl
@[simp] theorem rejectRequest_wire (v : BitVec 9) : (rejectRequest v s).wire = s.wire := rfl
@[simp] theorem rejectRequest_readBack (v : BitVec 9) : (rejectRequest v s).readBack = s.readBack := rfl
@[simp] theorem rejectRequest_inputs (v : BitVec 9) : (rejectRequest v s).inputs = s.inputs := rfl

@[simp] theorem issueWrite_cfg (r : Req) (frame : List Byte) : (issueWrite r frame s).cfg = s.cfg := rfl
@[simp] theorem issueWrite_encIn (r : Req) (frame : List Byte) : (issueWrite r frame s).encIn = s.encIn := rfl
@[simp] theorem issueWrite_timeoutIn (r : Req) (frame : List Byte) : (issueWrite r frame s).timeoutIn = s.timeoutIn := rfl
@[simp] theorem issueWrite_enc (r : Req) (frame : List Byte) : (issueWrite r frame s).enc = s.enc := rfl
@[simp] theorem issueWrite_decIn (r : Req) (frame : List Byte) : (issueWrite r frame s).decIn = s.decIn := rfl
@[simp] theorem issueWrite_dec (r : Req) (frame : List Byte) : (issueWrite r frame s).dec = s.dec := rfl
@[simp] theorem issueWrite_phase (r : Req) (frame : List Byte) : (issueWrite r frame s).phase = .writing := rfl
@[simp] theorem issueWrite_cur (r : Req) (frame : List Byte) : (issueWrite r frame s).cur = some ⟨r.cmd, frame, flenOf r, rlenOfCode r.cmd⟩ := rfl
@[simp] theorem issueWrite_curTimeout (r : Req) (frame : List Byte) : (issueWrite r frame s).curTimeout = some s.timeoutIn := rfl
@[simp] theorem issueWrite_outcome (r : Req) (frame : List Byte) : (issueWrite r frame s).outcome = s.outcome := rfl
@[simp] theorem issueWrite_isOpen (r : Req) (frame : List Byte) : (issueWrite r frame s).isOpen = s.isOpen := rfl
@[simp] theorem issueWrite_suspect (r : Req) (frame : List Byte) : (issueWrite r frame s).suspect = s.suspect := rfl
@[simp] theorem issueWrite_fault (r : Req) (frame : List Byte) : (issueWrite r frame s).fault = s.fault := rfl
@[simp] theorem issueWrite_calls (r : Req) (frame : List Byte) : (issueWrite r frame s).calls = .txWrite frame (flenOf r) :: s.calls := rfl
@[simp] theorem issueWrite_wire (r : Req) (frame : List Byte) : (issueWrite r frame s).wire = s.wire := rfl
@[simp] theorem issueWrite_readBack (r : Req) (frame : List Byte) : (issueWrite r frame s).readBack = s.readBack := rfl
@[simp] theorem issueWrite_inputs (r : Req) (frame : List Byte) : (issueWrite r frame s).inputs = s.inputs := rfl

@[simp] theorem issueRead_cfg (n t : Nat) : (issueRead n t s).cfg = s.cfg := rfl
@[simp] theorem issueRead_encIn (n t : Nat) : (issueRead n t s).encIn = s.encIn := rfl
@[simp] theorem issueRead_timeoutIn (n t : Nat) : (issueRead n t s).timeoutIn = s.timeoutIn := rfl
@[simp] theorem issueRead_enc (n t : Nat) : (issueRead n t s).enc = s.enc := rfl
@[simp] theorem issueRead_decIn (n t : Nat) : (issueRead n t s).decIn = s.decIn := rfl
@[simp] theorem issueRead_dec (n t : Nat) : (issueRead n t s).dec = s.dec := rfl
@[simp] theorem issueRead_phase (n t : Nat) : (issueRead n t s).phase = .reading := rfl
@[simp] theorem issueRead_cur (n t : Nat) : (issueRead n t s).cur = s.cur := rfl
@[simp] theorem issueRead_curTimeout (n t : Nat) : (issueRead n t s).curTimeout = s.curTimeout := rfl
@[simp] theorem issueRead_outcome (n t : Nat) : (issueRead n t s).outcome = s.outcome := rfl
@[simp] theorem issueRead_isOpen (n t : Nat) : (issueRead n t s).isOpen = s.isOpen := rfl
@[simp] theorem issueRead_suspect (n t : Nat) : (issueRead n t s).suspect = s.suspect := rfl
@[simp] theorem issueRead_fault (n t : Nat) : (issueRead n t s).fault = s.fault := rfl
@[simp] theorem issueRead_calls (n t : Nat) : (issueRead n t s).calls = .rxRead n t :: s.calls := rfl
@[simp] theorem issueRead_wire (n t : Nat) : (issueRead n t s).wire = s.wire := rfl
@[simp] theorem issueRead_readBack (n t : Nat) : (issueRead n t s).readBack = s.readBack := rfl
@[simp] theorem issueRead_inputs (n t : Nat) : (issueRead n t s).inputs = s.inputs := rfl

@[simp] theorem handOver_cfg (frame : List Byte) (w : Nat) : (handOver frame w s).cfg = s.cfg := rfl
@[simp] theorem handOver_encIn (frame : List Byte) (w : Nat) : (handOver frame w s).encIn = s.encIn := rfl
@[simp] theorem handOver_timeoutIn (frame : List Byte) (w : Nat) : (handOver frame w s).timeoutIn = s.timeoutIn := rfl
@[simp] theorem handOver_enc (frame : List Byte) (w : Nat) : (handOver frame w s).enc = s.enc := rfl
@[simp] theorem handOver_decIn (frame : List Byte) (w : Nat) : (handOver frame w s).decIn = s.decIn := rfl
@[simp] theorem handOver_dec (frame : List Byte) (w : Nat) : (handOver frame w s).dec = s.dec := rfl
@[simp] theorem handOver_phase (frame : List Byte) (w : Nat) : (handOver frame w s).phase = s.phase := rfl
@[simp] theorem handOver_cur (frame : List Byte) (w : Nat) : (handOver frame w s).cur = s.cur := rfl
@[simp] theorem handOver_curTimeout (frame : List Byte) (w : Nat) : (handOver frame w s).curTimeout = s.curTimeout := rfl
@[simp] theorem handOver_outcome (frame : List Byte) (w : Nat) : (handOver frame w s).outcome = s.outcome := rfl
@[simp] theorem handOver_isOpen (frame : List Byte) (w : Nat) : (handOver frame w s).isOpen = s.isOpen := rfl
@[simp] theorem handOver_suspect (frame : List Byte) (w : Nat) : (handOver frame w s).suspect = s.suspect := rfl
@[simp] theorem handOver_fault (frame : List Byte) (w : Nat) : (handOver frame w s).fault = s.fault := rfl
@[simp] theorem handOver_calls (frame : List Byte) (w : Nat) : (handOver frame w s).calls = s.calls := rfl
@[simp] theorem handOver_wire (frame : List Byte) (w : Nat) : (handOver frame w s).wire = s.wire ++ frame.take w := rfl
@[simp] theorem handOver_readBack (frame : List Byte) (w : Nat) : (handOver frame w s).readBack = s.readBack := rfl
@[simp] theorem handOver_inputs (frame : List Byte) (w : Nat) : (handOver frame w s).inputs = s.inputs := rfl

@[simp] theorem abandon_cfg : (abandon s).cfg = s.cfg := rfl
@[simp] theorem abandon_encIn : (abandon s).encIn = s.encIn := rfl
@[simp] theorem abandon_timeoutIn : (abandon s).timeoutIn = s.timeoutIn := rfl
@[simp] theorem abandon_enc : (abandon s).enc = s.enc := rfl
@[simp] theorem abandon_decIn : (abandon s).decIn = s.decIn := rfl
@[simp] theorem abandon_dec : (abandon s).dec = s.dec := rfl
@[simp] theorem abandon_phase : (abandon s).phase = .idle := rfl
@[simp] theorem abandon_cur : (abandon s).cur = none := rfl
@[simp] theorem abandon_curTimeout : (abandon s).curTimeout = none := rfl
@[simp] theorem abandon_outcome : (abandon s).outcome = none := rfl
@[simp] theorem abandon_isOpen : (abandon s).isOpen = false := rfl
@[simp] theorem abandon_suspect : (abandon s).suspect = true := rfl
@[simp] theorem abandon_fault : (abandon s).fault = s.fault := rfl
@[simp] theorem abandon_calls : (abandon s).calls = s.calls := rfl
@[simp] theorem abandon_wire : (abandon s).wire = s.wire := rfl
@[simp] theorem abandon_readBack : (abandon s).readBack = s.readBack := rfl
@[simp] theorem abandon_inputs : (abandon s).inputs = s.inputs := rfl

@[simp] theorem driveRequest_cfg (r : Req) (t : Nat) : (driveRequest r t s).cfg = s.cfg := rfl
@[simp] theorem driveRequest_encIn (r : Req) (t : Nat) : (driveRequest r t s).encIn = r := rfl
@[simp] theorem driveRequest_timeoutIn (r : Req) (t : Nat) : (driveRequest r t s).timeoutIn = t := rfl
@[simp] theorem driveRequest_enc (r : Req) (t : Nat) : (driveRequest r t s).enc = s.enc := rfl
@[simp] theorem driveRequest_decIn (r : Req) (t : Nat) : (driveRequest r t s).decIn = s.decIn := rfl
@[simp] theorem driveRequest_dec (r : Req) (t : Nat) : (driveRequest r t s).dec = s.dec := rfl
@[simp] theorem driveRequest_phase (r : Req) (t : Nat) : (driveRequest r t s).phase = s.phase := rfl
@[simp] theorem driveRequest_cur (r : Req) (t : Nat) : (driveRequest r t s).cur = s.cur := rfl
@[simp] theorem driveRequest_curTimeout (r : Req) (t : Nat) : (driveRequest r t s).curTimeout = s.curTimeout := rfl
@[simp] theorem driveRequest_outcome (r : Req) (t : Nat) : (driveRequest r t s).outcome = s.outcome := rfl
@[simp] theorem driveRequest_isOpen (r : Req) (t : Nat) : (driveRequest r t s).isOpen = s.isOpen := rfl
@[simp] theorem driveRequest_suspect (r : Req) (t : Nat) : (driveRequest r t s).suspect = s.suspect := rfl
@[simp] theorem driveRequest_fault (r : Req) (t : Nat) : (driveRequest r t s).fault = s.fault := rfl
@[simp] theorem driveRequest_calls (r : Req) (t : Nat) : (driveRequest r t s).calls = s.calls := rfl
@[simp] theorem driveRequest_wire (r : Req) (t : Nat) : (driveRequest r t s).wire = s.wire := rfl
@[simp] theorem driveRequest_readBack (r : Req) (t : Nat) : (driveRequest r t s).readBack = s.readBack := rfl
@[simp] theorem driveRequest_inputs (r : Req) (t : Nat) : (driveRequest r t s).inputs = s.inputs := rfl

@[simp] theorem powerOn_cfg : (powerOn s).cfg = s.cfg := rfl
@[simp] theorem powerOn_encIn : (powerOn s).encIn = s.encIn := rfl
@[simp] theorem powerOn_timeoutIn : (powerOn s).timeoutIn = s.timeoutIn := rfl
@[simp] theorem powerOn_enc : (powerOn s).enc = none := rfl
@[simp] theorem powerOn_decIn : (powerOn s).decIn = s.decIn := rfl
@[simp] theorem powerOn_dec : (powerOn s).dec = none := rfl
@[simp] theorem powerOn_phase : (powerOn s).phase = .idle := rfl
@[simp] theorem powerOn_cur : (powerOn s).cur = none := rfl
@[simp] theorem powerOn_curTimeout : (powerOn s).curTimeout = none := rfl
@[simp] theorem powerOn_outcome : (powerOn s).outcome = none := rfl
@[simp] theorem powerOn_isOpen : (powerOn s).isOpen = false := rfl
@[simp] theorem powerOn_suspect : (powerOn s).suspect = false := rfl
@[simp] theorem powerOn_fault : (powerOn s).fault = .empty := rfl
@[simp] theorem powerOn_calls : (powerOn s).calls = s.calls := rfl
@[simp] theorem powerOn_wire : (powerOn s).wire = s.wire := rfl
@[simp] theorem powerOn_readBack : (powerOn s).readBack = s.readBack := rfl
@[simp] theorem powerOn_inputs : (powerOn s).inputs = s.inputs := rfl

@[simp] theorem admitting_cfg : (admitting s).cfg = s.cfg := rfl
@[simp] theorem admitting_encIn : (admitting s).encIn = s.encIn := rfl
@[simp] theorem admitting_timeoutIn : (admitting s).timeoutIn = s.timeoutIn := rfl
@[simp] theorem admitting_enc : (admitting s).enc = s.enc := rfl
@[simp] theorem admitting_decIn : (admitting s).decIn = s.decIn := rfl
@[simp] theorem admitting_dec : (admitting s).dec = s.dec := rfl
@[simp] theorem admitting_phase : (admitting s).phase = .idle := rfl
@[simp] theorem admitting_cur : (admitting s).cur = none := rfl
@[simp] theorem admitting_curTimeout : (admitting s).curTimeout = none := rfl
@[simp] theorem admitting_outcome : (admitting s).outcome = s.outcome := rfl
@[simp] theorem admitting_isOpen : (admitting s).isOpen = true := rfl
@[simp] theorem admitting_suspect : (admitting s).suspect = s.suspect := rfl
@[simp] theorem admitting_fault : (admitting s).fault = s.fault := rfl
@[simp] theorem admitting_calls : (admitting s).calls = s.calls := rfl
@[simp] theorem admitting_wire : (admitting s).wire = s.wire := rfl
@[simp] theorem admitting_readBack : (admitting s).readBack = s.readBack := rfl
@[simp] theorem admitting_inputs : (admitting s).inputs = s.inputs := rfl

end Sys2Proof.Machine
end

