-- ==== Sys2Proof/Laws/Encoder.lean ====
section
/-! SUPPORT. Command codes, and what an encoder evaluation can answer. -/

namespace Sys2Proof

@[simp] theorem Command.ofCode_code (c : Command) : Command.ofCode c.code = some c := by cases c <;> rfl

theorem Command.ofCode_eq_some_iff (code : BitVec 4) (c : Command) : Command.ofCode code = some c ↔ code = c.code := by
  revert code; cases c <;> decide

theorem Command.ofCode_eq_none_iff (code : BitVec 4) : Command.ofCode code = none ↔ 10 ≤ code.toNat := by
  revert code; decide

@[simp] theorem rlenOfCode_code (c : Command) : rlenOfCode c.code = c.rlen := by simp [rlenOfCode]

theorem Command.mem_all (c : Command) : c ∈ Command.all := by cases c <;> decide

namespace Machine

variable (cfg : Config) (r : Req)

@[simp] theorem payload_length (c : Command) (pval : Half) (pid : Byte) : (payload c pval pid).length = c.plen := by
  cases c <;> rfl

@[simp] theorem framePrefix_length (mode : Mode) (dev : Byte) : (framePrefix mode dev).length + 1 = mode.pre := by
  cases mode <;> rfl

/-- A field of at most 7 bits of a byte is a data byte, and its value is the number's bits. -/
theorem field_toNat {w : Nat} (v : BitVec w) (lo n : Nat) (h : n ≤ 8) : (field v lo n).toNat = v.toNat / 2 ^ lo % 2 ^ n := by
  have h2 : (v.toNat >>> lo) % 2 ^ n < 2 ^ 8 :=
    Nat.lt_of_lt_of_le (Nat.mod_lt _ (Nat.two_pow_pos n)) (Nat.pow_le_pow_right (by decide) h)
  simp only [field, BitVec.toNat_setWidth, BitVec.extractLsb'_toNat]
  rw [Nat.mod_eq_of_lt h2, Nat.shiftRight_eq_div_pow]

/-- A nonzero VERR is the encoder's answer. -/
theorem encodeRequest_error (h : verr cfg r ≠ 0) : encodeRequest cfg r = .error (verr cfg r) := if_neg h

/-- The code of a request with VERR 0 is a command's. -/
theorem exists_command_of_verr (h : verr cfg r = 0) : ∃ c : Command, r.cmd = c.code := by
  have h0 := ((verr_eq_zero_iff cfg r).mp h).1
  cases hc : Command.ofCode r.cmd with
  | none =>
    have := (Command.ofCode_eq_none_iff r.cmd).mp hc
    simp [cmdUndef] at h0
    omega
  | some c => exact ⟨c, (Command.ofCode_eq_some_iff _ _).mp hc⟩

/-- The whole frame of a request with VERR 0 (R126). -/
theorem encodeRequest_ok {c : Command} (h : verr cfg r = 0) (hc : r.cmd = c.code) :
    encodeRequest cfg r = .ok (framePrefix r.mode r.dev ++ opcode cfg r.mode c :: payload c r.pval r.pid) := by
  unfold encodeRequest
  rw [if_pos h, hc, Command.ofCode_code]

/-- Everything an evaluation can answer (R129): a whole frame with VERR 0, or the nonzero VERR. -/
theorem encodeRequest_cases :
    (∃ c : Command, r.cmd = c.code ∧ verr cfg r = 0 ∧
      encodeRequest cfg r = .ok (framePrefix r.mode r.dev ++ opcode cfg r.mode c :: payload c r.pval r.pid)) ∨
    (verr cfg r ≠ 0 ∧ encodeRequest cfg r = .error (verr cfg r)) := by
  by_cases h : verr cfg r = 0
  · obtain ⟨c, hc⟩ := exists_command_of_verr cfg r h
    exact .inl ⟨c, hc, h, encodeRequest_ok cfg r h hc⟩
  · exact .inr ⟨h, encodeRequest_error cfg r h⟩

theorem encOut_ok {frame : List Byte} (h : encodeRequest cfg r = .ok frame) :
    encOut cfg r = { frame := frame, flen := BitVec.ofNat 3 (flenOf r), rleno := BitVec.ofNat 3 (rlenOfCode r.cmd), verr := 0 } := by
  simp [encOut, h]

theorem encOut_error {v : BitVec 9} (h : encodeRequest cfg r = .error v) :
    encOut cfg r = { frame := [], flen := 0, rleno := BitVec.ofNat 3 (rlenOfCode r.cmd), verr := v } := by
  simp [encOut, h]

theorem flenOf_eq {c : Command} (hc : r.cmd = c.code) : flenOf r = r.mode.pre + c.plen := by simp [flenOf, hc]

end Machine

end Sys2Proof
end

