-- ==== Sys2Proof/Laws/Decode.lean ====
section
/-! SUPPORT. The fields of an encoding, read back: each payload format's reader against its writer, and the opcode lookup. -/

namespace Sys2Proof

theorem extractLsb'_toNat_eq {w : Nat} (v : BitVec w) (lo n : Nat) : (v.extractLsb' lo n).toNat = v.toNat / 2 ^ lo % 2 ^ n := by
  simp [BitVec.extractLsb'_toNat, Nat.shiftRight_eq_div_pow]

theorem deviceInRange_iff (d : Byte) : deviceInRange d = true ↔ d.toNat ≤ 127 := by simp [deviceInRange]
theorem pwm13InRange_iff (v : Half) : pwm13InRange v = true ↔ v.toNat ≤ 3200 := by simp [pwm13InRange]
theorem pwm7InRange_iff (v : Half) : pwm7InRange v = true ↔ v.toNat ≤ 127 := by simp [pwm7InRange]
theorem dutyInRange_iff (v : Half) : dutyInRange v = true ↔ v.toNat ≤ 32 := by simp [dutyInRange]
theorem limitValueInRange_iff (v : Half) : limitValueInRange v = true ↔ v.toNat ≤ 16383 := by simp [limitValueInRange]

/-- A byte written as `0` and 7 bits is a data byte (R85). -/
theorem isDataByte_append (x : BitVec 7) : isDataByte (0#1 ++ x) = true := by revert x; decide

theorem isDataByte_iff (b : Byte) : isDataByte b = true ↔ b.toNat ≤ 127 := by revert b; decide

/-- An id or device id of a data byte is its own 7 bits. -/
theorem dataByte_eq (b : Byte) (h : b.toNat ≤ 127) : (0#1 ++ b.extractLsb' 0 7 : BitVec 8) = b := by revert b; decide

theorem pw13_low_reserved (x : BitVec 5) : (0#3 ++ x : BitVec 8).extractLsb' 5 3 = 0 := by revert x; decide

theorem pd_reserved (x : BitVec 6) : (0#2 ++ x : BitVec 8).extractLsb' 6 2 = 0 := by revert x; decide

theorem readPW13_toNat (a b : Byte) : (readPW13 a b).toNat = a.toNat % 32 + 32 * (b.toNat % 128) := by
  simp only [readPW13, BitVec.toNat_append, extractLsb'_toNat_eq]
  rw [← Nat.shiftLeft_add_eq_or_of_lt (by omega)]
  simp [Nat.shiftLeft_eq]; omega

theorem readPL_toNat (a b : Byte) : (readPL a b).toNat = a.toNat % 128 + 128 * (b.toNat % 128) := by
  simp only [readPL, BitVec.toNat_append, extractLsb'_toNat_eq]
  rw [← Nat.shiftLeft_add_eq_or_of_lt (by omega)]
  simp [Nat.shiftLeft_eq]; omega

theorem zero_append_toNat (k : Nat) {n : Nat} (x : BitVec n) : (0#k ++ x).toNat = x.toNat := by simp

theorem readByte_toNat (a : Byte) : (readByte a).toNat = a.toNat := zero_append_toNat 8 a

/-- PW13 reads back what it wrote, for every accepted pwm. -/
theorem readPW13_encode (v : Half) (h : v.toNat ≤ 3200) :
    readPW13 (0#3 ++ v.extractLsb' 0 5) (0#1 ++ v.extractLsb' 5 7) = v := by
  apply BitVec.eq_of_toNat_eq
  have h0 := zero_append_toNat 3 (v.extractLsb' 0 5)
  have h1 := zero_append_toNat 1 (v.extractLsb' 5 7)
  rw [extractLsb'_toNat_eq] at h0 h1
  rw [readPW13_toNat]
  omega

/-- PL reads back what it wrote, for every accepted value. -/
theorem readPL_encode (v : Half) (h : v.toNat ≤ 16383) :
    readPL (0#1 ++ v.extractLsb' 0 7) (0#1 ++ v.extractLsb' 7 7) = v := by
  apply BitVec.eq_of_toNat_eq
  have h0 := zero_append_toNat 1 (v.extractLsb' 0 7)
  have h1 := zero_append_toNat 1 (v.extractLsb' 7 7)
  rw [extractLsb'_toNat_eq] at h0 h1
  rw [readPL_toNat]
  omega

/-- PW7 reads back what it wrote, for every accepted pwm. -/
theorem readByte_encodePW7 (v : Half) (h : v.toNat ≤ 127) : readByte (0#1 ++ v.extractLsb' 0 7) = v := by
  apply BitVec.eq_of_toNat_eq
  have h0 := zero_append_toNat 1 (v.extractLsb' 0 7)
  rw [extractLsb'_toNat_eq] at h0
  rw [readByte_toNat]
  omega

/-- PD reads back what it wrote, for every accepted duty. -/
theorem readByte_encodePD (v : Half) (h : v.toNat ≤ 32) : readByte (0#2 ++ v.extractLsb' 0 6) = v := by
  apply BitVec.eq_of_toNat_eq
  have h0 := zero_append_toNat 2 (v.extractLsb' 0 6)
  rw [extractLsb'_toNat_eq] at h0
  rw [readByte_toNat]
  omega

/-- A table whose opcodes differ finds each command by its opcode. -/
theorem OpcodeTable.find_get (t : OpcodeTable) (hi : ∀ c c', t.get c = t.get c' → c = c') (c : Command) :
    t.find (t.get c) = some c := by
  unfold OpcodeTable.find
  cases h : Command.all.find? (fun c' => decide (t.get c' = t.get c)) with
  | none => have := List.find?_eq_none.mp h c c.mem_all; simp at this
  | some c' =>
    have hg : t.get c' = t.get c := by simpa using List.find?_some h
    rw [hi _ _ hg]

/-- What a table finds has that opcode, whatever the table. -/
theorem OpcodeTable.get_of_find (t : OpcodeTable) {op : Byte} {c : Command} (h : t.find op = some c) : t.get c = op := by
  simpa using List.find?_some h

/-- A row accepted is well formed, and it is the row offered. -/
theorem accept_eq_ok {cfg : Config} {i j : Instr} {rest rest' : List Byte} (h : accept cfg i rest = .ok (j, rest')) :
    i.wellFormed cfg = true ∧ i = j ∧ rest = rest' := by
  unfold accept at h
  split at h
  · cases h; exact ⟨‹_›, rfl, rfl⟩
  · cases h

end Sys2Proof
end

