-- ==== Sys2Proof/Laws/Decoder.lean ====
section
/-! SUPPORT. What a decoder evaluation can answer. -/

namespace Sys2Proof.Machine

variable (d : DecIn)

theorem decodeResponse_setLimit (hc : d.dcmd = Command.setLimit.code) (h : 1 ≤ d.rcnt.toNat) :
    decodeResponse d = .ok (.limitStatus (limitStatusOf d.rbuf.b0)) := by
  simp [decodeResponse, hc, Command.rlen, Nat.not_lt.mpr h]

theorem decodeResponse_getVariable (hc : d.dcmd = Command.getVariable.code) (h : 2 ≤ d.rcnt.toNat) :
    decodeResponse d = .ok (.raw16 (littleEndian d.rbuf.b0 d.rbuf.b1)) := by
  simp [decodeResponse, hc, Command.rlen, Nat.not_lt.mpr h]

theorem decodeResponse_getFirmware (hc : d.dcmd = Command.getFirmware.code) (h : 4 ≤ d.rcnt.toNat) :
    decodeResponse d = .ok (.firmware (littleEndian d.rbuf.b0 d.rbuf.b1) d.rbuf.b2 d.rbuf.b3) := by
  simp [decodeResponse, hc, Command.rlen, Nat.not_lt.mpr h]

theorem decodeResponse_noPath (h : rlenOfCode d.dcmd = 0) : decodeResponse d = .error .noDecodePath := by
  unfold decodeResponse
  cases hc : Command.ofCode d.dcmd with
  | none => rfl
  | some c => simp [rlenOfCode, hc] at h; simp [h]

theorem decodeResponse_short (h0 : rlenOfCode d.dcmd ≠ 0) (h : d.rcnt.toNat < rlenOfCode d.dcmd) :
    decodeResponse d = .error .shortInput := by
  unfold decodeResponse
  cases hc : Command.ofCode d.dcmd with
  | none => simp [rlenOfCode, hc] at h0
  | some c => simp [rlenOfCode, hc] at h0 h; simp [h0, h]

theorem rlenOfCode_ne_zero {code : BitVec 4} (h : rlenOfCode code ≠ 0) :
    code = Command.setLimit.code ∨ code = Command.getVariable.code ∨ code = Command.getFirmware.code := by
  revert code; decide

theorem rlenOfCode_le_four (code : BitVec 4) : rlenOfCode code ≤ 4 := by revert code; decide

/-- Everything an evaluation can answer (R183): no path, too few bytes, or a result. -/
theorem decodeResponse_cases :
    (rlenOfCode d.dcmd = 0 ∧ decodeResponse d = .error .noDecodePath) ∨
    (rlenOfCode d.dcmd ≠ 0 ∧ d.rcnt.toNat < rlenOfCode d.dcmd ∧ decodeResponse d = .error .shortInput) ∨
    (rlenOfCode d.dcmd ≠ 0 ∧ rlenOfCode d.dcmd ≤ d.rcnt.toNat ∧ ∃ res, decodeResponse d = .ok res) := by
  by_cases h0 : rlenOfCode d.dcmd = 0
  · exact .inl ⟨h0, decodeResponse_noPath d h0⟩
  by_cases h : d.rcnt.toNat < rlenOfCode d.dcmd
  · exact .inr (.inl ⟨h0, h, decodeResponse_short d h0 h⟩)
  · refine .inr (.inr ⟨h0, Nat.not_lt.mp h, ?_⟩)
    obtain hc | hc | hc := rlenOfCode_ne_zero h0 <;> rw [hc] at h
    · exact ⟨_, decodeResponse_setLimit d hc (Nat.not_lt.mp h)⟩
    · exact ⟨_, decodeResponse_getVariable d hc (Nat.not_lt.mp h)⟩
    · exact ⟨_, decodeResponse_getFirmware d hc (Nat.not_lt.mp h)⟩

/-- RBUF after a reply at least as long as the buffer's read part holds the reply's bytes. -/
@[simp] theorem load_one (b : ReplyBuffer) (x : Byte) : b.load [x] = { b with b0 := x } := rfl
@[simp] theorem load_two (b : ReplyBuffer) (x y : Byte) : b.load [x, y] = { b with b0 := x, b1 := y } := rfl
@[simp] theorem load_four (b : ReplyBuffer) (x y z w : Byte) : b.load [x, y, z, w] = { b0 := x, b1 := y, b2 := z, b3 := w } := rfl

/-- Everything a decoder evaluation does to the state (R170). -/
theorem evalDecoder_cases (s : State) :
    (∃ res, decodeResponse d = .ok res ∧ evalDecoder d s = writeDecoded res (driveDecoder d s)) ∨
    (∃ f, decodeResponse d = .error f ∧ (f = .noDecodePath ∨ f = .shortInput) ∧ evalDecoder d s = raise f (driveDecoder d s)) := by
  obtain ⟨_, h⟩ | ⟨_, _, h⟩ | ⟨_, _, res, h⟩ := decodeResponse_cases d
  · exact .inr ⟨_, h, .inl rfl, by simp [evalDecoder, h]⟩
  · exact .inr ⟨_, h, .inr rfl, by simp [evalDecoder, h]⟩
  · exact .inl ⟨res, h, by simp [evalDecoder, h]⟩

end Sys2Proof.Machine
end

