-- ==== Sys2Proof/Laws/PerInstr.lean ====
section
/-! SUPPORT. For every instruction: the length of its encoding, as opcode_table.json gives it (`flen`, `rlen`). -/

namespace Sys2Proof.Laws.EncodedLength

/-- The number of bytes of a row: `flen`, or `rlen` for a reply; 0 for a rejected row. -/
def rowLength : Instr → Nat
  | .exitSafeStartA _ => 3
  | .exitSafeStartB => 1
  | .motorForwardA _ _ => 5
  | .motorForwardB _ => 3
  | .motorReverseA _ _ => 5
  | .motorReverseB _ => 3
  | .motorForward7BitA _ _ => 4
  | .motorForward7BitB _ => 2
  | .motorReverse7BitA _ _ => 4
  | .motorReverse7BitB _ => 2
  | .brakeA _ _ => 4
  | .brakeB _ => 2
  | .stopA _ => 3
  | .stopB => 1
  | .setLimitA _ _ _ => 6
  | .setLimitB _ _ => 0
  | .getVariableA _ _ => 4
  | .getVariableB _ => 0
  | .getFirmwareA _ => 3
  | .getFirmwareB => 0
  | .setLimitReply _ => 1
  | .getVariableReply _ _ => 2
  | .getFirmwareReply _ _ _ _ => 4

/-- A row's encoding has the table's length under every configuration: the length is static (R88, R97). -/
def Statement (i : Instr) : Prop := ∀ cfg : Config, (encode cfg i).length = rowLength i

theorem exitSafeStartA (dev : Byte) : Statement (.exitSafeStartA dev) := fun _ => rfl
theorem exitSafeStartB : Statement .exitSafeStartB := fun _ => rfl
theorem motorForwardA (dev : Byte) (pwm : Half) : Statement (.motorForwardA dev pwm) := fun _ => rfl
theorem motorForwardB (pwm : Half) : Statement (.motorForwardB pwm) := fun _ => rfl
theorem motorReverseA (dev : Byte) (pwm : Half) : Statement (.motorReverseA dev pwm) := fun _ => rfl
theorem motorReverseB (pwm : Half) : Statement (.motorReverseB pwm) := fun _ => rfl
theorem motorForward7BitA (dev : Byte) (pwm : Half) : Statement (.motorForward7BitA dev pwm) := fun _ => rfl
theorem motorForward7BitB (pwm : Half) : Statement (.motorForward7BitB pwm) := fun _ => rfl
theorem motorReverse7BitA (dev : Byte) (pwm : Half) : Statement (.motorReverse7BitA dev pwm) := fun _ => rfl
theorem motorReverse7BitB (pwm : Half) : Statement (.motorReverse7BitB pwm) := fun _ => rfl
theorem brakeA (dev : Byte) (duty : Half) : Statement (.brakeA dev duty) := fun _ => rfl
theorem brakeB (duty : Half) : Statement (.brakeB duty) := fun _ => rfl
theorem stopA (dev : Byte) : Statement (.stopA dev) := fun _ => rfl
theorem stopB : Statement .stopB := fun _ => rfl
theorem setLimitA (dev : Byte) (limitId : Byte) (value : Half) : Statement (.setLimitA dev limitId value) := fun _ => rfl
theorem setLimitB (limitId : Byte) (value : Half) : Statement (.setLimitB limitId value) := fun _ => rfl
theorem getVariableA (dev : Byte) (variableId : Byte) : Statement (.getVariableA dev variableId) := fun _ => rfl
theorem getVariableB (variableId : Byte) : Statement (.getVariableB variableId) := fun _ => rfl
theorem getFirmwareA (dev : Byte) : Statement (.getFirmwareA dev) := fun _ => rfl
theorem getFirmwareB : Statement .getFirmwareB := fun _ => rfl
theorem setLimitReply (b0 : Byte) : Statement (.setLimitReply b0) := fun _ => rfl
theorem getVariableReply (b0 : Byte) (b1 : Byte) : Statement (.getVariableReply b0 b1) := fun _ => rfl
theorem getFirmwareReply (b0 : Byte) (b1 : Byte) (b2 : Byte) (b3 : Byte) : Statement (.getFirmwareReply b0 b1 b2 b3) := fun _ => rfl

end Sys2Proof.Laws.EncodedLength
end

