-- ==== Sys2Proof/Laws/Sequencer.lean ====
section
/-! SUPPORT. Everything a request, a completion, an open, a close and a step can do, each said once. -/

namespace Sys2Proof.Machine

variable (s : State)

/-- Everything a request can do (R191-R193). -/
theorem request_cases (r : Req) :
    (s.phase ≠ .idle ∧ request r s = .next (raise .busy s)) ∨
    (s.phase = .idle ∧ s.isOpen = false ∧ request r s = .next (raise .notOpen s)) ∨
    (s.phase = .idle ∧ s.isOpen = true ∧ ∃ v, encodeRequest s.cfg r = .error v ∧
      request r s = .next (rejectRequest v (evalEncoder r s))) ∨
    (s.phase = .idle ∧ s.isOpen = true ∧ ∃ frame, encodeRequest s.cfg r = .ok frame ∧
      request r s = .next (issueWrite r frame (evalEncoder r s))) := by
  cases hp : s.phase with
  | writing => exact .inl ⟨by simp, by simp [request, hp]⟩
  | reading => exact .inl ⟨by simp, by simp [request, hp]⟩
  | idle =>
    cases ho : s.isOpen with
    | false => exact .inr (.inl ⟨rfl, rfl, by simp [request, hp, ho]⟩)
    | true =>
      cases he : encodeRequest s.cfg r with
      | error v => exact .inr (.inr (.inl ⟨rfl, rfl, v, rfl, by simp [request, hp, ho, he]⟩))
      | ok frame => exact .inr (.inr (.inr ⟨rfl, rfl, frame, rfl, by simp [request, hp, ho, he]⟩))

/-- A request always has a next state. -/
theorem request_next (r : Req) : ∃ t, request r s = .next t := by
  obtain ⟨_, h⟩ | ⟨_, _, h⟩ | ⟨_, _, _, _, h⟩ | ⟨_, _, _, _, h⟩ := request_cases s r <;> exact ⟨_, h⟩

/-- The request a row presents: its operands on the ports it lists, the other ports as they were (R127). -/
def rowRequest (i : Instr) (prev : Req) : Req :=
  match i with
  | .exitSafeStartA dev => { prev with cmd := Command.exitSafeStart.code, mode := .addressed, dev := dev }
  | .exitSafeStartB => { prev with cmd := Command.exitSafeStart.code, mode := .broadcast }
  | .motorForwardA dev pwm => { prev with cmd := Command.motorForward.code, mode := .addressed, dev := dev, pval := pwm }
  | .motorForwardB pwm => { prev with cmd := Command.motorForward.code, mode := .broadcast, pval := pwm }
  | .motorReverseA dev pwm => { prev with cmd := Command.motorReverse.code, mode := .addressed, dev := dev, pval := pwm }
  | .motorReverseB pwm => { prev with cmd := Command.motorReverse.code, mode := .broadcast, pval := pwm }
  | .motorForward7BitA dev pwm => { prev with cmd := Command.motorForward7Bit.code, mode := .addressed, dev := dev, pval := pwm }
  | .motorForward7BitB pwm => { prev with cmd := Command.motorForward7Bit.code, mode := .broadcast, pval := pwm }
  | .motorReverse7BitA dev pwm => { prev with cmd := Command.motorReverse7Bit.code, mode := .addressed, dev := dev, pval := pwm }
  | .motorReverse7BitB pwm => { prev with cmd := Command.motorReverse7Bit.code, mode := .broadcast, pval := pwm }
  | .brakeA dev duty => { prev with cmd := Command.brake.code, mode := .addressed, dev := dev, pval := duty }
  | .brakeB duty => { prev with cmd := Command.brake.code, mode := .broadcast, pval := duty }
  | .stopA dev => { prev with cmd := Command.stop.code, mode := .addressed, dev := dev }
  | .stopB => { prev with cmd := Command.stop.code, mode := .broadcast }
  | .setLimitA dev limitId value =>
    { prev with cmd := Command.setLimit.code, mode := .addressed, dev := dev, pval := value, pid := limitId }
  | .setLimitB limitId value => { prev with cmd := Command.setLimit.code, mode := .broadcast, pval := value, pid := limitId }
  | .getVariableA dev variableId => { prev with cmd := Command.getVariable.code, mode := .addressed, dev := dev, pid := variableId }
  | .getVariableB variableId => { prev with cmd := Command.getVariable.code, mode := .broadcast, pid := variableId }
  | .getFirmwareA dev => { prev with cmd := Command.getFirmware.code, mode := .addressed, dev := dev }
  | .getFirmwareB => { prev with cmd := Command.getFirmware.code, mode := .broadcast }
  | .setLimitReply _ => prev
  | .getVariableReply _ _ => prev
  | .getFirmwareReply _ _ _ _ => prev

/-- Every request row is one request step (R209). -/
theorem exec_request (i : Instr) (h : i.isRequest = true) : exec i s = request (rowRequest i s.encIn) s := by
  cases i <;> first | rfl | simp [Instr.isRequest] at h

/-- Every reply row is one decoder evaluation of its own command with its own count (R174-R176). -/
theorem exec_reply (i : Instr) (h : i.isRequest = false) :
    exec i s = .next (evalDecoder
      { dcmd := i.command.code, rbuf := s.decIn.rbuf.load (encode s.cfg i), rcnt := BitVec.ofNat 3 i.command.rlen } s) := by
  cases i <;> first | rfl | simp [Instr.isRequest] at h

/-- Everything a write completion in its phase can do (R194-R197). -/
theorem completeWrite_cases (w : Nat) (l : Latch) (t : Nat) :
    (l.flen < w ∧ completeWrite w l t s = raise .transportContract s) ∨
    (w < l.flen ∧ completeWrite w l t s = finish (.writeFailure w) (handOver l.frame w s)) ∨
    (w = l.flen ∧ l.rlen = 0 ∧ completeWrite w l t s = finish (.ok none) (handOver l.frame w s)) ∨
    (w = l.flen ∧ 0 < l.rlen ∧ completeWrite w l t s = issueRead l.rlen t (handOver l.frame w s)) := by
  unfold completeWrite
  split
  · exact .inl ⟨‹_›, rfl⟩
  · split
    · exact .inr (.inl ⟨‹_›, rfl⟩)
    · split
      · exact .inr (.inr (.inl ⟨by omega, ‹_›, rfl⟩))
      · exact .inr (.inr (.inr ⟨by omega, by omega, rfl⟩))

/-- Everything `wdone` can do. -/
theorem writeDone_cases (w : Nat) :
    ((s.phase ≠ .writing ∨ s.isOpen = false) ∧ writeDone w s = .fault .completionHasNoStep) ∨
    (s.phase = .writing ∧ s.isOpen = true ∧ (s.cur = none ∨ s.curTimeout = none) ∧ writeDone w s = .next (raise .noValue s)) ∨
    (s.phase = .writing ∧ s.isOpen = true ∧ ∃ l t, s.cur = some l ∧ s.curTimeout = some t ∧
      writeDone w s = .next (completeWrite w l t s)) := by
  by_cases h : s.phase = .writing ∧ s.isOpen = true
  case neg =>
    refine .inl ⟨by cases hp : s.phase <;> simp_all, ?_⟩
    cases hp : s.phase <;> cases ho : s.isOpen <;> simp_all [writeDone]
  obtain ⟨hp, ho⟩ := h
  cases hc : s.cur with
  | none => exact .inr (.inl ⟨hp, ho, .inl rfl, by simp [writeDone, hp, ho, hc]⟩)
  | some l =>
    cases ht : s.curTimeout with
    | none => exact .inr (.inl ⟨hp, ho, .inr rfl, by simp [writeDone, hp, ho, hc, ht]⟩)
    | some t => exact .inr (.inr ⟨hp, ho, l, t, rfl, rfl, by simp [writeDone, hp, ho, hc, ht]⟩)

/-- The decoder inputs the sequencer drives with a reply (R200). -/
abbrev replyInputs (bytes : List Byte) (l : Latch) (s : State) : DecIn :=
  { dcmd := l.cmd, rbuf := s.decIn.rbuf.load bytes, rcnt := BitVec.ofNat 3 bytes.length }

/-- Everything a read completion in its phase can do (R199-R201). -/
theorem completeRead_cases (bytes : List Byte) (l : Latch) :
    (l.rlen < bytes.length ∧ completeRead bytes l s = raise .transportContract s) ∨
    (bytes.length < l.rlen ∧ completeRead bytes l s = { finish (.readShortfall bytes.length) s with suspect := true }) ∨
    (bytes.length = l.rlen ∧ ∃ res, decodeResponse (replyInputs bytes l s) = .ok res ∧
      completeRead bytes l s = finish (.ok (some res)) (writeDecoded res (driveDecoder (replyInputs bytes l s) s))) ∨
    (bytes.length = l.rlen ∧ ∃ f, decodeResponse (replyInputs bytes l s) = .error f ∧
      completeRead bytes l s = raise f (driveDecoder (replyInputs bytes l s) s)) := by
  unfold completeRead
  split
  · exact .inl ⟨‹_›, rfl⟩
  · split
    · exact .inr (.inl ⟨‹_›, rfl⟩)
    · have hlen : bytes.length = l.rlen := by omega
      cases hd : decodeResponse (replyInputs bytes l s) with
      | ok res => exact .inr (.inr (.inl ⟨hlen, res, rfl, by simp [hd]⟩))
      | error f => exact .inr (.inr (.inr ⟨hlen, f, rfl, by simp [hd]⟩))

/-- Everything `rdone` can do. -/
theorem readDone_cases (bytes : List Byte) :
    ((s.phase ≠ .reading ∨ s.isOpen = false) ∧ readDone bytes s = .fault .completionHasNoStep) ∨
    (s.phase = .reading ∧ s.isOpen = true ∧ s.cur = none ∧ readDone bytes s = .next (raise .noValue s)) ∨
    (s.phase = .reading ∧ s.isOpen = true ∧ ∃ l, s.cur = some l ∧ readDone bytes s = .next (completeRead bytes l s)) := by
  by_cases h : s.phase = .reading ∧ s.isOpen = true
  case neg =>
    refine .inl ⟨by cases hp : s.phase <;> simp_all, ?_⟩
    cases hp : s.phase <;> cases ho : s.isOpen <;> simp_all [readDone]
  obtain ⟨hp, ho⟩ := h
  cases hc : s.cur with
  | none => exact .inr (.inl ⟨hp, ho, rfl, by simp [readDone, hp, ho, hc]⟩)
  | some l => exact .inr (.inr ⟨hp, ho, l, rfl, by simp [readDone, hp, ho, hc]⟩)

/-- Everything `open` can do (R205). -/
theorem openTransport_cases :
    ((s.phase ≠ .idle ∨ s.isOpen = true) ∧ openTransport s = .fault .openHasNoStep) ∨
    (s.phase = .idle ∧ s.isOpen = false ∧ openTransport s = .next { s with isOpen := true }) := by
  cases hp : s.phase <;> cases ho : s.isOpen <;> simp [openTransport, hp, ho]

/-- Everything `close` can do (R198, R205). -/
theorem closeTransport_cases :
    (s.isOpen = false ∧ closeTransport s = .fault .closeHasNoStep) ∨
    (s.phase = .idle ∧ s.isOpen = true ∧ closeTransport s = .next { s with isOpen := false }) ∨
    (s.phase ≠ .idle ∧ s.isOpen = true ∧ closeTransport s = .next (abandon s)) := by
  cases hp : s.phase <;> cases ho : s.isOpen <;> simp [closeTransport, hp, ho]

/-- Everything a read of a port can do (R232). -/
theorem readPort_cases (p : Port) :
    (∃ v, portValue p { s with inputs := .read p :: s.inputs } = some v ∧ readPort p s = { s with readBack := some v }) ∨
    (portValue p { s with inputs := .read p :: s.inputs } = none ∧ readPort p s = raise .noValue s) := by
  cases h : portValue p { s with inputs := .read p :: s.inputs } with
  | some v => exact .inl ⟨v, rfl, by simp [readPort, h]⟩
  | none => exact .inr ⟨rfl, by simp [readPort, h]⟩

/-- A step takes the first event and runs it. -/
theorem step_cons {e : Event} {rest : List Event} (h : s.inputs = e :: rest) : step s = runEvent e { s with inputs := rest } := by
  simp [step, h]

/-- The only stop of a machine with no event presented. -/
theorem step_nil (h : s.inputs = []) : step s = .fault .noEvent := by simp [step, h]

/-- A step that has a next state took an event. -/
theorem step_next_cons {t : State} (h : step s = .next t) :
    ∃ e rest, s.inputs = e :: rest ∧ runEvent e { s with inputs := rest } = .next t := by
  cases hi : s.inputs with
  | nil => simp [step, hi] at h
  | cons e rest => exact ⟨e, rest, rfl, by rw [← step_cons s hi]; exact h⟩

/-- A run whose first step has a next state goes on from it. -/
theorem run_succ {s t : State} (h : step s = .next t) (k : Nat) :
    Host.Core.run Sys2Proof.core (k + 1) s = Host.Core.run Sys2Proof.core k t := by
  have hs : Sys2Proof.core.step s = .next t := h
  simp only [Host.Core.run, hs]

@[simp] theorem run_zero (s : State) : Host.Core.run Sys2Proof.core 0 s = .next s := rfl

/-! ### Every transition -/

/-- A request's row, presented again over the request's own ports, is the request. -/
theorem rowRequest_ofReq {r : Req} {i : Instr} (h : Instr.ofReq r = some i) : i.isRequest = true ∧ rowRequest i r = r := by
  cases hc : Command.ofCode r.cmd with
  | none => simp [Instr.ofReq, hc] at h
  | some c =>
    have hc := (Command.ofCode_eq_some_iff _ _).mp hc
    obtain ⟨cmd, mode, dev, pval, pid⟩ := r
    simp only at hc
    subst hc
    cases c <;> cases mode <;> simp [Instr.ofReq] at h <;> subst h <;> exact ⟨rfl, rfl⟩

/-- `req` is the request step on the driven ports, whichever row it is. -/
theorem runRequest_eq (r : Req) (timeout : Nat) : runRequest r timeout s = request r (driveRequest r timeout s) := by
  unfold runRequest
  split
  · rename_i i h
    obtain ⟨hr, hq⟩ := rowRequest_ofReq h
    rw [exec_request _ i hr, driveRequest_encIn, hq]
  · rfl

/-- A reply row decodes to a result: its count is its command's. -/
theorem exec_reply_next (i : Instr) (h : i.isRequest = false) :
    ∃ d res, decodeResponse d = .ok res ∧ exec i s = .next (writeDecoded res (driveDecoder d s)) := by
  cases i <;> first | exact ⟨_, _, rfl, rfl⟩ | simp [Instr.isRequest] at h

/-- A step the caller presents keeps the run from being over (R264), so the decoder outputs hold the last evaluation's values. -/
theorem decOutputs_of_caller {e : Event} {rest : List Event} (hi : s.inputs = e :: rest) (he : e.isCallers = true) :
    decOutputs s = s.dec := by
  refine if_neg fun h => ?_
  have := h.2.2 e (by simp [hi])
  simp [he] at this

/-- After the run no decoder output holds a value (R264). -/
theorem decOutputs_of_runOver (h : s.runOver) : decOutputs s = none := if_pos h

/-- A table word that decodes to a row runs it as the very next step, in the admitting state. -/
theorem step_withFetchWord {nbits w : Nat} {i : Instr} (h : decodeWord s.cfg (bytesOfWord (nbits / 8) w) = .ok i) :
    step (s.withFetchWord nbits w) = exec i (admitting s) := by
  simp [State.withFetchWord, presentWord, h, step, runEvent, runRow, admitting]

/-- No step is refused: every event that State can hold is a step of the spec or stuck by R205. -/
theorem step_not_refused (r : Refusal) : step s ≠ .refused r := by
  intro h
  cases hi : s.inputs with
  | nil => rw [step_nil s hi] at h; cases h
  | cons e rest =>
    rw [step_cons s hi] at h
    generalize { s with inputs := rest } = u at h
    cases e with
    | req q n =>
      simp only [runEvent, runRequest_eq] at h
      obtain ⟨t, ht⟩ := request_next (driveRequest q n u) q
      rw [ht] at h; cases h
    | row i n =>
      simp only [runEvent, runRow] at h
      cases hq : i.isRequest with
      | true =>
        rw [exec_request _ i hq] at h
        obtain ⟨t, ht⟩ := request_next { u with timeoutIn := n } (rowRequest i u.encIn)
        rw [ht] at h; cases h
      | false => rw [exec_reply _ i hq] at h; cases h
    | wdone w =>
      simp only [runEvent] at h
      obtain ⟨_, hx⟩ | ⟨_, _, _, hx⟩ | ⟨_, _, _, _, _, _, hx⟩ := writeDone_cases u w <;> rw [hx] at h <;> cases h
    | rdone bytes =>
      simp only [runEvent] at h
      obtain ⟨_, hx⟩ | ⟨_, _, _, hx⟩ | ⟨_, _, _, _, hx⟩ := readDone_cases u bytes <;> rw [hx] at h <;> cases h
    | openTransport =>
      simp only [runEvent] at h
      obtain ⟨_, hx⟩ | ⟨_, _, hx⟩ := openTransport_cases u <;> rw [hx] at h <;> cases h
    | closeTransport =>
      simp only [runEvent] at h
      obtain ⟨_, hx⟩ | ⟨_, _, hx⟩ | ⟨_, _, hx⟩ := closeTransport_cases u <;> rw [hx] at h <;> cases h
    | evalEncoder q => cases h
    | evalDecoder d => cases h
    | read p => cases h
    | powerOn => cases h

/-- The event presents a request: one on the ports, or a request row. -/
def Event.presents : Event → Bool
  | .req _ _ => true
  | .row i _ => i.isRequest
  | .wdone _ => false
  | .rdone _ => false
  | .openTransport => false
  | .closeTransport => false
  | .evalEncoder _ => false
  | .evalDecoder _ => false
  | .read _ => false
  | .powerOn => false

/-- The transitions of the machine: from a state with its event taken, by an event, to a state. -/
inductive Transition (s : State) : Event → State → Prop
  | busy {e : Event} (p : Req) (n : Nat) : e.presents = true → s.phase ≠ .idle →
      Transition s e (raise .busy { s with encIn := p, timeoutIn := n })
  | notOpen {e : Event} (p : Req) (n : Nat) : e.presents = true → s.phase = .idle → s.isOpen = false →
      Transition s e (raise .notOpen { s with encIn := p, timeoutIn := n })
  | invalid {e : Event} (p q : Req) (n : Nat) (v : BitVec 9) : e.presents = true → s.phase = .idle → s.isOpen = true →
      encodeRequest s.cfg q = .error v → Transition s e (rejectRequest v (evalEncoder q { s with encIn := p, timeoutIn := n }))
  | issue {e : Event} (p q : Req) (n : Nat) (frame : List Byte) : e.presents = true → s.phase = .idle → s.isOpen = true →
      encodeRequest s.cfg q = .ok frame → Transition s e (issueWrite q frame (evalEncoder q { s with encIn := p, timeoutIn := n }))
  | reply (i : Instr) (n : Nat) (d : DecIn) (res : DecResult) : i.isRequest = false → decodeResponse d = .ok res →
      Transition s (.row i n) (writeDecoded res (driveDecoder d { s with timeoutIn := n }))
  | writeNoValue (w : Nat) : s.phase = .writing → (s.cur = none ∨ s.curTimeout = none) → Transition s (.wdone w) (raise .noValue s)
  | written (w : Nat) (l : Latch) (t : Nat) : s.phase = .writing → s.isOpen = true → s.cur = some l → s.curTimeout = some t →
      Transition s (.wdone w) (completeWrite w l t s)
  | readNoValue (bytes : List Byte) : s.phase = .reading → s.cur = none → Transition s (.rdone bytes) (raise .noValue s)
  | obtained (bytes : List Byte) (l : Latch) : s.phase = .reading → s.isOpen = true → s.cur = some l →
      Transition s (.rdone bytes) (completeRead bytes l s)
  | opened : s.phase = .idle → s.isOpen = false → Transition s .openTransport { s with isOpen := true }
  | closed : s.phase = .idle → s.isOpen = true → Transition s .closeTransport { s with isOpen := false }
  | abandoned : s.phase ≠ .idle → s.isOpen = true → Transition s .closeTransport (abandon s)
  | encoder (r : Req) : Transition s (.evalEncoder r) (evalEncoder r s)
  | decoder (d : DecIn) : Transition s (.evalDecoder d) (evalDecoder d s)
  | read (p : Port) : Transition s (.read p) (readPort p s)
  | reset : Transition s .powerOn (powerOn s)

/-- A request's next state is one of four transitions. -/
theorem transition_of_request {s t : State} {e : Event} (p q : Req) (n : Nat) (he : e.presents = true)
    (h : request q { s with encIn := p, timeoutIn := n } = .next t) : Transition s e t := by
  obtain ⟨hp, hr⟩ | ⟨hp, ho, hr⟩ | ⟨hp, ho, v, hv, hr⟩ | ⟨hp, ho, frame, hf, hr⟩ :=
    request_cases { s with encIn := p, timeoutIn := n } q <;> rw [hr] at h <;> cases h
  · exact .busy p n he hp
  · exact .notOpen p n he hp ho
  · exact .invalid p q n v he hp ho hv
  · exact .issue p q n frame he hp ho hf

/-- Everything an event can do. -/
theorem transition_of_runEvent {s t : State} {e : Event} (h : runEvent e s = .next t) : Transition s e t := by
  cases e with
  | req r n => exact transition_of_request r r n rfl (by rw [← h]; exact (runRequest_eq s r n).symm)
  | row i n =>
    simp only [runEvent, runRow] at h
    cases hi : i.isRequest with
    | true =>
      rw [exec_request _ i hi] at h
      exact transition_of_request s.encIn _ n hi h
    | false =>
      obtain ⟨d, res, hd, hx⟩ := exec_reply_next { s with timeoutIn := n } i hi
      rw [hx] at h
      cases h
      exact .reply i n d res hi hd
  | wdone w =>
    simp only [runEvent] at h
    obtain ⟨_, hx⟩ | ⟨hp, _, hc, hx⟩ | ⟨hp, ho, l, n, hc, ht, hx⟩ := writeDone_cases s w <;> rw [hx] at h <;> cases h
    · exact .writeNoValue w hp hc
    · exact .written w l n hp ho hc ht
  | rdone bytes =>
    simp only [runEvent] at h
    obtain ⟨_, hx⟩ | ⟨hp, _, hc, hx⟩ | ⟨hp, ho, l, hc, hx⟩ := readDone_cases s bytes <;> rw [hx] at h <;> cases h
    · exact .readNoValue bytes hp hc
    · exact .obtained bytes l hp ho hc
  | openTransport =>
    simp only [runEvent] at h
    obtain ⟨_, hx⟩ | ⟨hp, ho, hx⟩ := openTransport_cases s <;> rw [hx] at h <;> cases h
    exact .opened hp ho
  | closeTransport =>
    simp only [runEvent] at h
    obtain ⟨_, hx⟩ | ⟨hp, ho, hx⟩ | ⟨hp, ho, hx⟩ := closeTransport_cases s <;> rw [hx] at h <;> cases h
    · exact .closed hp ho
    · exact .abandoned hp ho
  | evalEncoder r => cases h; exact .encoder r
  | evalDecoder d => cases h; exact .decoder d
  | read p => cases h; exact .read p
  | powerOn => cases h; exact .reset

/-- Everything a step can do: it takes the first event, and makes one of the machine's transitions by it. -/
theorem step_cases {s t : State} (h : step s = .next t) :
    ∃ e rest, s.inputs = e :: rest ∧ Transition { s with inputs := rest } e t := by
  obtain ⟨e, rest, hi, hr⟩ := step_next_cons s h
  exact ⟨e, rest, hi, transition_of_runEvent hr⟩

/-- The same, for a known first event. -/
theorem step_transition {s t : State} {e : Event} {rest : List Event} (hi : s.inputs = e :: rest) (h : step s = .next t) :
    Transition { s with inputs := rest } e t := by
  rw [step_cons s hi] at h
  exact transition_of_runEvent h

end Sys2Proof.Machine
end

