-- ==== Sys2Proof/Tests/Slice0.lean ====
section
/-! SUPPORT. Tests. Expected results are spec/95_test_vectors.md's (L1, L2, L3; its frames under profile P-GK), or written out by hand from
spec/30_encoding.md's bit tables. Then, for each obligation with hypotheses, a witness that meets them. -/

open Sys2Proof Sys2Proof.Machine

namespace Sys2Proof.Tests

/-! ### States and readers -/

/-- The vectors' start state: after power-on reset, then `open`. -/
def ready : State := { State.reset with isOpen := true }

/-- The next state, where there is one. -/
def nextOf : Result → Option State
  | .next s => some s
  | .fault _ => none
  | .refused _ => none

/-- What one instruction sends from `ready`: the frame in flight. -/
def sent (i : Instr) : Option (List Byte) := (nextOf (exec i ready)).bind (fun s => s.cur.map (fun l => l.frame))

/-- What one instruction ends in at once, from `ready`, with its phase and the number of transport calls. -/
def ended (i : Instr) : Option (Option ExchangeOutcome × Phase × Nat) :=
  (nextOf (exec i ready)).map (fun s => (s.outcome, s.phase, s.calls.length))

/-- A rejected request: VALIDATION_ERROR with the mask, IDLE, no transport call (R192). -/
def rejectedWith (v : BitVec 9) : Option (Option ExchangeOutcome × Phase × Nat) := some (some (.validationError v), .idle, 0)

/-- The state after one event. -/
def after (e : Event) (s : State) : Option State := nextOf (step { s with inputs := [e] })

/-- getVariable(device=13, variableId=5), its frame sent, the write outstanding. -/
def latch : Latch := { cmd := 8, frame := [0xAA, 0x0D, 0x21, 0x05], flen := 4, rlen := 2 }
def writing : State :=
  { ready with phase := .writing, cur := some latch, curTimeout := some 9, calls := [.txWrite [0xAA, 0x0D, 0x21, 0x05] 4] }
/-- The same, its read outstanding. -/
def reading : State :=
  { writing with phase := .reading, wire := [0xAA, 0x0D, 0x21, 0x05], calls := [.rxRead 2 9, .txWrite [0xAA, 0x0D, 0x21, 0x05] 4] }

/-! ### WellFormed: an ill-formed term for each check -/

theorem test_wf_device : Instr.wellFormed Config.pgk (.stopA 128) = false ∧ Instr.wellFormed Config.pgk (.stopA 127) = true := by decide
theorem test_wf_pwm13 : Instr.wellFormed Config.pgk (.motorForwardB 3201) = false ∧ Instr.wellFormed Config.pgk (.motorForwardB 3200) = true := by decide
theorem test_wf_pwm7 : Instr.wellFormed Config.pgk (.motorReverse7BitB 128) = false ∧ Instr.wellFormed Config.pgk (.motorReverse7BitB 127) = true := by decide
theorem test_wf_duty : Instr.wellFormed Config.pgk (.brakeB 33) = false ∧ Instr.wellFormed Config.pgk (.brakeB 0) = true := by decide
theorem test_wf_limit_value : Instr.wellFormed Config.pgk (.setLimitA 2 0 16384) = false ∧ Instr.wellFormed Config.pgk (.setLimitA 2 0 16383) = true := by decide
theorem test_wf_limit_id : Instr.wellFormed Config.pgk (.setLimitA 2 12 5) = false ∧ Instr.wellFormed Config.pgk (.setLimitA 2 11 5) = true := by decide
theorem test_wf_variable_id : Instr.wellFormed Config.pgk (.getVariableA 2 128) = false ∧ Instr.wellFormed Config.pgk (.getVariableA 2 127) = true := by decide
theorem test_wf_broadcast_response :
    Instr.wellFormed Config.pgk (.setLimitB 0 5) = false ∧ Instr.wellFormed Config.pgk (.getVariableB 5) = false ∧
    Instr.wellFormed Config.pgk .getFirmwareB = false := by decide

/-! ### Decode and encode: words written out from R81, R82, R84, R96 and P-GK's opcodes -/

theorem test_words_exitSafeStart :
    decodeWord Config.pgk [0xAA, 0x05, 0x03] = .ok (.exitSafeStartA 5) ∧ decodeWord Config.pgk [0x83] = .ok .exitSafeStartB := by decide
theorem test_words_motorForward :
    decodeWord Config.pgk [0xAA, 0x01, 0x05, 0x1F, 0x03] = .ok (.motorForwardA 1 127) ∧
    decodeWord Config.pgk [0x85, 0x00, 0x64] = .ok (.motorForwardB 3200) := by decide
theorem test_words_motorReverse :
    decodeWord Config.pgk [0xAA, 0x7F, 0x06, 0x05, 0x00] = .ok (.motorReverseA 127 5) ∧
    decodeWord Config.pgk [0x86, 0x08, 0x1F] = .ok (.motorReverseB 1000) := by decide
theorem test_words_motorForward7Bit :
    decodeWord Config.pgk [0xAA, 0x01, 0x09, 0x7F] = .ok (.motorForward7BitA 1 127) ∧
    decodeWord Config.pgk [0x89, 0x00] = .ok (.motorForward7BitB 0) := by decide
theorem test_words_motorReverse7Bit :
    decodeWord Config.pgk [0xAA, 0x01, 0x0A, 0x01] = .ok (.motorReverse7BitA 1 1) ∧
    decodeWord Config.pgk [0x8A, 0x64] = .ok (.motorReverse7BitB 100) := by decide
theorem test_words_brake :
    decodeWord Config.pgk [0xAA, 0x02, 0x12, 0x14] = .ok (.brakeA 2 20) ∧ decodeWord Config.pgk [0x92, 0x20] = .ok (.brakeB 32) := by decide
theorem test_words_stop :
    decodeWord Config.pgk [0xAA, 0x09, 0x60] = .ok (.stopA 9) ∧ decodeWord Config.pgk [0xE0] = .ok .stopB := by decide
theorem test_words_setLimit :
    decodeWord Config.pgk [0xAA, 0x02, 0x22, 0x00, 0x38, 0x17] = .ok (.setLimitA 2 0 3000) ∧
    decodeWord Config.pgk [0xA2, 0x00, 0x05, 0x00] = .error .broadcastResponse ∧
    decodeWord Config.pgk [0x06] = .ok (.setLimitReply 6) := by decide
theorem test_words_getVariable :
    decodeWord Config.pgk [0xAA, 0x0D, 0x21, 0x05] = .ok (.getVariableA 13 5) ∧
    decodeWord Config.pgk [0xA1, 0x05] = .error .broadcastResponse ∧
    decodeWord Config.pgk [0x34, 0x12] = .ok (.getVariableReply 0x34 0x12) := by decide
theorem test_words_getFirmware :
    decodeWord Config.pgk [0xAA, 0x00, 0x42] = .ok (.getFirmwareA 0) ∧
    decodeWord Config.pgk [0xC2] = .error .broadcastResponse ∧
    decodeWord Config.pgk [0x01, 0x02, 0x10, 0x02] = .ok (.getFirmwareReply 1 2 0x10 2) := by decide

/-- Every named reason to reject. -/
theorem test_words_rejected :
    decodeWord Config.pgk [0xAA, 0x09] = .error .truncated ∧
    decodeWord Config.pgk [0x00, 0x01, 0x02] = .error (.notAFrame 0) ∧
    decodeWord Config.pgk [0xAA, 0x09, 0x04] = .error (.unknownOpcode 4) ∧
    decodeWord Config.pgk [0xAA, 0x80, 0x60] = .error .reservedBit ∧
    decodeWord Config.pgk [0x85, 0x20, 0x00] = .error .reservedBit ∧
    decodeWord Config.pgk [0x85, 0x01, 0x64] = .error .operandRange ∧
    decodeWord Config.pgk [0xE0, 0x00] = .error .trailing ∧
    decodeReply .stop [0x00] = .error .noReplyFormat := by decide

/-- Two frames on the stream: the first is read, the second left (R97). -/
theorem test_stream : decodeFrame Config.pgk [0xE0, 0x8A, 0x64] = .ok (.stopB, [0x8A, 0x64]) := by decide

theorem test_encode :
    encode Config.pgk (.motorForwardA 3 3200) = [0xAA, 0x03, 0x05, 0x00, 0x64] ∧
    encode Config.pgk (.brakeB 32) = [0x92, 0x20] ∧
    encode Config.pgk (.setLimitA 2 0 128) = [0xAA, 0x02, 0x22, 0x00, 0x00, 0x01] ∧
    encode Config.pgk (.getFirmwareReply 1 2 0x10 2) = [1, 2, 0x10, 2] := by decide

/-! ### One instruction, from `ready` (L1, L2.1-L2.6) -/

theorem test_exitSafeStart : sent (.exitSafeStartA 127) = some [0xAA, 0x7F, 0x03] ∧ sent .exitSafeStartB = some [0x83] := by decide
theorem test_motorForward : sent (.motorForwardA 1 3199) = some [0xAA, 0x01, 0x05, 0x1F, 0x63] ∧ sent (.motorForwardB 3200) = some [0x85, 0x00, 0x64] := by decide
theorem test_motorReverse : sent (.motorReverseA 127 5) = some [0xAA, 0x7F, 0x06, 0x05, 0x00] ∧ sent (.motorReverseB 1000) = some [0x86, 0x08, 0x1F] := by decide
theorem test_motorForward7Bit : sent (.motorForward7BitA 1 127) = some [0xAA, 0x01, 0x09, 0x7F] ∧ sent (.motorForward7BitB 0) = some [0x89, 0x00] := by decide
theorem test_motorReverse7Bit : sent (.motorReverse7BitA 1 2) = some [0xAA, 0x01, 0x0A, 0x02] ∧ sent (.motorReverse7BitB 100) = some [0x8A, 0x64] := by decide
theorem test_brake : sent (.brakeA 2 0) = some [0xAA, 0x02, 0x12, 0x00] ∧ sent (.brakeB 32) = some [0x92, 0x20] := by decide
theorem test_stop : sent (.stopA 9) = some [0xAA, 0x09, 0x60] ∧ sent .stopB = some [0xE0] := by decide
theorem test_setLimit : sent (.setLimitA 2 0 16383) = some [0xAA, 0x02, 0x22, 0x00, 0x7F, 0x7F] ∧ ended (.setLimitB 0 16384) = rejectedWith 0x042 := by decide
theorem test_getVariable : sent (.getVariableA 13 5) = some [0xAA, 0x0D, 0x21, 0x05] ∧ ended (.getVariableB 128) = rejectedWith 0x102 := by decide
theorem test_getFirmware : sent (.getFirmwareA 0) = some [0xAA, 0x00, 0x42] ∧ ended .getFirmwareB = rejectedWith 0x002 := by decide

theorem test_validation_errors :
    ended (.exitSafeStartA 128) = rejectedWith 0x004 ∧ ended (.motorForwardA 128 3201) = rejectedWith 0x00C ∧
    ended (.motorReverse7BitA 200 200) = rejectedWith 0x014 ∧ ended (.brakeA 2 33) = rejectedWith 0x020 ∧
    ended (.setLimitA 128 200 20000) = rejectedWith 0x0C4 ∧ ended (.getVariableA 13 128) = rejectedWith 0x100 := by decide

theorem test_setLimitReply :
    (nextOf (exec (.setLimitReply 0xFF) ready)).map State.dec = some (some (.limitStatus 3)) ∧
    (nextOf (exec (.setLimitReply 0x06) ready)).map State.dec = some (some (.limitStatus 2)) := by decide
theorem test_getVariableReply :
    (nextOf (exec (.getVariableReply 0x34 0x12) ready)).map State.dec = some (some (.raw16 0x1234)) := by decide
theorem test_getFirmwareReply :
    (nextOf (exec (.getFirmwareReply 0xFF 0xFF 0x1A 0x99) ready)).map State.dec = some (some (.firmware 0xFFFF 0x1A 0x99)) := by decide

/-! ### One event (L2.7-L2.9, L3) -/

/-- L2.7: reserved codes. -/
theorem test_reserved_codes :
    verr Config.pgk { cmd := 12, mode := .addressed, dev := 5, pval := 0, pid := 0 } = 0x001 ∧
    verr Config.pgk { cmd := 12, mode := .addressed, dev := 200, pval := 0, pid := 0 } = 0x005 ∧
    verr Config.pgk { cmd := 15, mode := .broadcast, dev := 0, pval := 0, pid := 0 } = 0x001 := by decide

/-- L2.1: inputs a command does not use are ignored. -/
theorem test_unused_inputs :
    encodeRequest Config.pgk { cmd := 6, mode := .addressed, dev := 9, pval := 60000, pid := 200 } = .ok [0xAA, 0x09, 0x60] ∧
    encodeRequest Config.pgk { cmd := 0, mode := .broadcast, dev := 255, pval := 0, pid := 0 } = .ok [0x83] := by decide

/-- L2.8: the decoder's faults, and a count above RLEN. -/
theorem test_decoder_faults :
    decodeResponse { dcmd := 7, rbuf := { b0 := 0, b1 := 0, b2 := 0, b3 := 0 }, rcnt := 0 } = .error .shortInput ∧
    decodeResponse { dcmd := 9, rbuf := { b0 := 1, b1 := 2, b2 := 0x10, b3 := 0 }, rcnt := 3 } = .error .shortInput ∧
    decodeResponse { dcmd := 6, rbuf := { b0 := 0, b1 := 0, b2 := 0, b3 := 0 }, rcnt := 0 } = .error .noDecodePath ∧
    decodeResponse { dcmd := 12, rbuf := { b0 := 0, b1 := 0, b2 := 0, b3 := 0 }, rcnt := 0 } = .error .noDecodePath ∧
    decodeResponse { dcmd := 8, rbuf := { b0 := 0x34, b1 := 0x12, b2 := 0x99, b3 := 0x99 }, rcnt := 4 } = .ok (.raw16 0x1234) := by decide

theorem test_write_complete : (after (.wdone 4) writing).map (fun s => (s.phase, s.calls.head?)) = some (.reading, some (.rxRead 2 9)) := by decide
theorem test_write_failure :
    (after (.wdone 3) writing).map (fun s => (s.outcome, s.phase, s.wire)) = some (some (.writeFailure 3), .idle, [0xAA, 0x0D, 0x21]) := by decide
theorem test_write_contract : (after (.wdone 5) writing).map (fun s => (s.fault.transportContract, s.phase)) = some (true, .writing) := by decide
theorem test_read_complete :
    (after (.rdone [0xE8, 0x03]) reading).map (fun s => (s.outcome, s.phase, s.suspect)) = some (some (.ok (some (.raw16 1000))), .idle, false) := by decide
theorem test_read_shortfall :
    (after (.rdone [0xE8]) reading).map (fun s => (s.outcome, s.phase, s.suspect, s.dec)) = some (some (.readShortfall 1), .idle, true, none) := by decide
theorem test_abandon :
    (after .closeTransport reading).map (fun s => (s.outcome, s.phase, s.isOpen, s.suspect)) = some (none, .idle, false, true) := by decide
theorem test_busy : (nextOf (exec (.stopA 1) reading)).map (fun s => (s.fault.busy, s.phase)) = some (true, .reading) := by decide
theorem test_not_open : (nextOf (exec (.stopA 1) State.reset)).map (fun s => (s.fault.notOpen, s.phase)) = some (true, .idle) := by decide
theorem test_no_value : (after (.read .outcome) ready).map (fun s => s.fault.noValue) = some true := by decide
theorem test_bcd : bcdDigits 0x05 = [0, 5] ∧ bcdDecimal 0x10 = 10 := by decide

/-- The host's word of ExitSafeStart.A, with P-GK's opcode, is the first instruction after reset. -/
theorem test_withFetchWord :
    (nextOf (step (State.reset.withFetchWord 24 0xAA0D03))).map (fun s => s.cur.map (fun l => l.frame)) = some (some [0xAA, 0x0D, 0x03]) := by decide

/-! ### Witnesses: concrete states and operands that meet an obligation's hypotheses -/

theorem pgk_admitted : Config.pgk.Admitted :=
  ⟨by intro c; cases c <;> decide, by intro c; cases c <;> decide, by intro c c'; cases c <;> cases c' <;> decide, by decide, by decide⟩

theorem pgk_injective : Config.pgk.OpcodesInjective :=
  ⟨by intro c c'; cases c <;> cases c' <;> decide, by intro c c'; cases c <;> cases c' <;> decide⟩

theorem latch_legal : latch.Legal Config.pgk :=
  ⟨{ cmd := 8, mode := .addressed, dev := 13, pval := 0, pid := 5 }, by decide⟩

/-- `ready` and `reset` meet the invariant, whatever the environment will do. -/
theorem ready_inv (o : Bool) (es : List Event) : { State.reset with isOpen := o, inputs := es }.Inv where
  admitted := pgk_admitted
  latchIffBusy := ⟨by simp [State.reset], by simp [State.reset]⟩
  timeoutIffBusy := ⟨by simp [State.reset], by simp [State.reset]⟩
  openWhileBusy := by simp [State.reset]
  latchLegal := by simp [State.reset]
  readingExpects := by simp [State.reset]
  writeOutstanding := by simp [State.reset]
  readOutstanding := by simp [State.reset]
  ordered := trivial
  encConsistent := by simp [State.reset]
  outcomeInRange := by simp [State.reset]

theorem writing_inv (es : List Event) : { writing with inputs := es }.Inv where
  admitted := pgk_admitted
  latchIffBusy := ⟨by simp [writing], by simp [writing]⟩
  timeoutIffBusy := ⟨by simp [writing], by simp [writing]⟩
  openWhileBusy := fun _ => rfl
  latchLegal := by intro l h; cases h; exact latch_legal
  readingExpects := by simp [writing]
  writeOutstanding := by intro _ l h; cases h; exact ⟨[], rfl⟩
  readOutstanding := by simp [writing]
  ordered := ⟨rfl, by decide, by decide, trivial⟩
  encConsistent := by simp [writing, ready, State.reset]
  outcomeInRange := by simp [writing, ready, State.reset]

theorem reading_inv (es : List Event) : { reading with inputs := es }.Inv where
  admitted := pgk_admitted
  latchIffBusy := ⟨by simp [reading], by simp [reading, writing]⟩
  timeoutIffBusy := ⟨by simp [reading], by simp [reading, writing]⟩
  openWhileBusy := fun _ => rfl
  latchLegal := by intro l h; cases h; exact latch_legal
  readingExpects := by intro _ l h; cases h; decide
  writeOutstanding := by simp [reading]
  readOutstanding := by intro _ l t h h'; cases h; cases h'; exact ⟨[], rfl⟩
  ordered := ⟨by decide, rfl, by decide, by decide, trivial⟩
  encConsistent := by simp [reading, writing, ready, State.reset]
  outcomeInRange := by simp [reading, writing, ready, State.reset]

/-- A request on the ports. -/
def ask (cmd : BitVec 4) (mode : Mode) (dev : Byte) (pval : Half) (pid : Byte) : Req :=
  { cmd := cmd, mode := mode, dev := dev, pval := pval, pid := pid }

theorem witness_FrameDecodesToTheEncodedRow :
    Config.pgk.Admitted ∧ Config.pgk.OpcodesInjective ∧ (Instr.setLimitA 127 11 16383).isRequest = true ∧
    (Instr.setLimitA 127 11 16383).wellFormed Config.pgk = true := ⟨pgk_admitted, pgk_injective, by decide⟩

theorem witness_OnlyEncodedFramesDecode :
    decodeFrame Config.pgk [0xAA, 0x7F, 0x05, 0x00, 0x64, 0xE0] = .ok (.motorForwardA 127 3200, [0xE0]) := by decide

theorem witness_ReplyDecodesToTheEncodedRow : (Instr.getFirmwareReply 255 0 1 2).isRequest = false := by decide

theorem witness_EncoderOutputsTheRowsEncoding :
    Instr.ofReq (ask 5 .broadcast 255 32 9) = some (.brakeB 32) ∧ (Instr.brakeB 32).wellFormed Config.pgk = true := by decide

theorem witness_RowIsWellFormedExactlyWhenVerrIsZero : Instr.ofReq (ask 8 .broadcast 0 0 128) = some (.getVariableB 128) := by decide

/-- Every VERR bit alone, one step past its range, and 0 at the range's end. -/
theorem witness_VerrBitsAreExactlyTheViolatedConditions :
    verr Config.pgk (ask 10 .broadcast 0 0 0) = 0x001 ∧ verr Config.pgk (ask 9 .broadcast 0 0 0) = 0x002 ∧
    verr Config.pgk (ask 6 .addressed 128 0 0) = 0x004 ∧ verr Config.pgk (ask 6 .addressed 127 0 0) = 0 ∧
    verr Config.pgk (ask 2 .broadcast 0 3201 0) = 0x008 ∧ verr Config.pgk (ask 1 .broadcast 0 3200 0) = 0 ∧
    verr Config.pgk (ask 3 .broadcast 0 128 0) = 0x010 ∧ verr Config.pgk (ask 4 .broadcast 0 127 0) = 0 ∧
    verr Config.pgk (ask 5 .broadcast 0 33 0) = 0x020 ∧ verr Config.pgk (ask 5 .broadcast 0 32 0) = 0 ∧
    verr Config.pgk (ask 7 .addressed 0 16384 0) = 0x040 ∧ verr Config.pgk (ask 7 .addressed 0 16383 11) = 0 ∧
    verr Config.pgk (ask 7 .addressed 0 0 12) = 0x080 ∧ verr Config.pgk (ask 8 .addressed 0 0 128) = 0x100 ∧
    verr Config.pgk (ask 8 .addressed 0 0 127) = 0 := by decide

theorem witness_EncoderFailsClosed :
    verr Config.pgk (ask 1 .broadcast 0 3201 0) ≠ 0 ∧ verr Config.pgk (ask 1 .broadcast 0 3200 0) = 0 := by decide

theorem witness_FrameLengthIsTheStaticLength :
    encodeRequest Config.pgk (ask 7 .addressed 2 3000 0) = .ok [0xAA, 0x02, 0x22, 0x00, 0x38, 0x17] ∧
    encodeRequest Config.pgk (ask 0 .broadcast 0 0 0) = .ok [0x83] := by decide

theorem witness_FrameBytesKeepTheDataByteRule :
    Config.pgk.Admitted ∧ encodeRequest Config.pgk (ask 8 .addressed 127 0 127) = .ok [0xAA, 0x7F, 0x21, 0x7F] ∧
    encodeRequest Config.pgk (ask 3 .broadcast 0 127 0) = .ok [0x89, 0x7F] := ⟨pgk_admitted, by decide⟩

theorem witness_Pwm13SplitRecoversThePwm : (3200 : Half).toNat ≤ 3200 := by decide

theorem witness_LimitValueSplitRecoversTheValue : (16383 : Half).toNat ≤ 16383 := by decide

theorem witness_UnusedInputsDoNotMatter :
    let r := ask 6 .broadcast 1 2 3
    let r' := ask 6 .broadcast 255 60000 200
    r.cmd = r'.cmd ∧ r.mode = r'.mode ∧ (r.mode = .addressed → r.dev = r'.dev) ∧
    ((1 ≤ r.cmd.toNat ∧ r.cmd.toNat ≤ 5) ∨ r.cmd = 7 → r.pval = r'.pval) ∧ (r.cmd = 7 ∨ r.cmd = 8 → r.pid = r'.pid) ∧ r ≠ r' := by decide

theorem witness_AdmittedRequestsAreValidatedThenIssued :
    ready.phase = .idle ∧ ready.isOpen = true ∧ encodeRequest ready.cfg (ask 5 .broadcast 0 33 0) = .error 0x020 ∧
    encodeRequest ready.cfg (ask 5 .broadcast 0 32 0) = .ok [0x92, 0x20] := by decide

theorem witness_ControlCommandsFollowTheirRules :
    ready.phase = .idle ∧ ready.isOpen = true ∧ (127 : Byte).toNat ≤ 127 ∧ 127 < (128 : Byte).toNat := by decide

theorem witness_Motor13CommandsFollowTheirRules :
    ready.phase = .idle ∧ ready.isOpen = true ∧ (3200 : Half).toNat ≤ 3200 ∧ (127 : Byte).toNat ≤ 127 ∧ 127 < (128 : Byte).toNat ∧ 3200 < (3201 : Half).toNat := by decide

theorem witness_Motor7BitCommandsFollowTheirRules :
    ready.phase = .idle ∧ ready.isOpen = true ∧ (127 : Half).toNat ≤ 127 ∧ (127 : Byte).toNat ≤ 127 ∧ 127 < (128 : Byte).toNat ∧ 127 < (128 : Half).toNat := by decide

theorem witness_BrakeFollowsItsRule :
    ready.phase = .idle ∧ ready.isOpen = true ∧ (32 : Half).toNat ≤ 32 ∧ (127 : Byte).toNat ≤ 127 ∧ 127 < (128 : Byte).toNat ∧ 32 < (33 : Half).toNat := by decide

theorem witness_SetLimitIssuesTheSplitValue :
    ready.cfg.Admitted ∧ ready.phase = .idle ∧ ready.isOpen = true ∧ (127 : Byte).toNat ≤ 127 ∧ ready.cfg.limitIdValid 11 = true ∧
    (16383 : Half).toNat ≤ 16383 := ⟨pgk_admitted, by decide⟩

theorem witness_GetVariableIssuesItsFrame :
    ready.cfg.Admitted ∧ ready.phase = .idle ∧ ready.isOpen = true ∧ (127 : Byte).toNat ≤ 127 ∧ ready.cfg.varIdValid 127 = true :=
  ⟨pgk_admitted, by decide⟩

theorem witness_GetFirmwareIssuesItsFrame : ready.phase = .idle ∧ ready.isOpen = true ∧ (127 : Byte).toNat ≤ 127 := by decide

theorem witness_BroadcastQueriesAlwaysFail : ready.phase = .idle ∧ ready.isOpen = true := by decide

theorem witness_InvalidQueryOperandsAreReported :
    ready.phase = .idle ∧ ready.isOpen = true ∧ 127 < (128 : Byte).toNat ∧ 16383 < (16384 : Half).toNat ∧
    ready.cfg.limitIdValid 12 = false ∧ ready.cfg.varIdValid 128 = false := by decide

theorem witness_UnadmittedRequestsOnlyMarkTheFault :
    (Instr.stopB).isRequest = true ∧ reading.phase ≠ .idle ∧ writing.phase ≠ .idle ∧
    State.reset.phase = .idle ∧ State.reset.isOpen = false := by decide

/-- The decoding clauses of the three replies, at the ends of RCNT's ranges. -/
theorem witness_ReplyStatements :
    let d (c : BitVec 4) (n : BitVec 3) : DecIn := { dcmd := c, rbuf := { b0 := 1, b1 := 2, b2 := 3, b3 := 4 }, rcnt := n }
    (d 7 1).dcmd = 7 ∧ 1 ≤ (d 7 1).rcnt.toNat ∧ (d 7 0).rcnt = 0 ∧ (d 8 2).dcmd = 8 ∧ 2 ≤ (d 8 2).rcnt.toNat ∧ (d 8 1).rcnt.toNat < 2 ∧
    (d 9 4).dcmd = 9 ∧ 4 ≤ (d 9 4).rcnt.toNat ∧ (d 9 3).rcnt.toNat < 4 := by decide

theorem witness_ReservedCodesAreRejected :
    { ready with inputs := [.req (ask 15 .addressed 128 0 0) 7] }.inputs = [.req (ask 15 .addressed 128 0 0) 7] ∧
    ready.phase = .idle ∧ ready.isOpen = true ∧ 10 ≤ (ask 15 .addressed 128 0 0).cmd.toNat ∧ 10 ≤ (ask 10 .addressed 0 0 0).cmd.toNat := by decide

/-- The three clauses of the decoder's misuse, at the ends of their ranges. -/
theorem witness_DecoderFaultsExactlyOnMisuse :
    let d (c : BitVec 4) (n : BitVec 3) : DecIn := { dcmd := c, rbuf := { b0 := 1, b1 := 2, b2 := 3, b3 := 4 }, rcnt := n }
    { ready with inputs := [.evalDecoder (d 6 4)] }.inputs = [.evalDecoder (d 6 4)] ∧
    ((d 6 4).dcmd ≠ 7 ∧ (d 6 4).dcmd ≠ 8 ∧ (d 6 4).dcmd ≠ 9) ∧ ((d 9 3).dcmd = 9 ∧ (d 9 3).rcnt.toNat < 4) ∧
    ((d 9 4).dcmd = 9 ∧ 4 ≤ (d 9 4).rcnt.toNat) := by decide

theorem witness_DecoderReadsExactlyTheReplyBytes :
    let d : DecIn := { dcmd := 8, rbuf := { b0 := 1, b1 := 2, b2 := 3, b3 := 4 }, rcnt := 2 }
    let d' : DecIn := { dcmd := 8, rbuf := { b0 := 1, b1 := 2, b2 := 9, b3 := 9 }, rcnt := 4 }
    d.dcmd = d'.dcmd ∧ rlenOfCode d.dcmd ≤ d.rcnt.toNat ∧ rlenOfCode d.dcmd ≤ d'.rcnt.toNat ∧ d.rbuf.b0 = d'.rbuf.b0 ∧
    (2 ≤ rlenOfCode d.dcmd → d.rbuf.b1 = d'.rbuf.b1) ∧ (4 ≤ rlenOfCode d.dcmd → d.rbuf.b2 = d'.rbuf.b2 ∧ d.rbuf.b3 = d'.rbuf.b3) ∧ d ≠ d' := by decide

theorem witness_PackedBcdReadsAsItsDigits : (9 : Nat) ≤ 9 ∧ (0 : Nat) ≤ 9 := by decide

/-- Counts 5, 3 and 4 are the three sides of a frame of 4 with a reply; `stop` is a frame without one. -/
theorem witness_WriteCompletionFollowsTheTable :
    let stop : Latch := { cmd := 6, frame := [0xE0], flen := 1, rlen := 0 }
    { writing with inputs := [.wdone 4] }.inputs = [.wdone 4] ∧ writing.phase = .writing ∧ writing.isOpen = true ∧
    writing.cur = some latch ∧ writing.curTimeout = some 9 ∧ latch.flen < 5 ∧ 3 < latch.flen ∧ 4 = latch.flen ∧ 0 < latch.rlen ∧
    { writing with cur := some stop, inputs := [.wdone 1] }.cur = some stop ∧ 1 = stop.flen ∧ stop.rlen = 0 := by decide

theorem witness_ShortAndLongReadsFollowTheTable :
    { reading with inputs := [.rdone [1]] }.inputs = [.rdone [1]] ∧ reading.phase = .reading ∧ reading.isOpen = true ∧
    reading.cur = some latch ∧ latch.rlen < [1, 2, (3 : Byte)].length ∧ [(1 : Byte)].length < latch.rlen := by decide

theorem witness_WholeReplyEndsTheExchangeWithItsResult :
    { reading with inputs := [.rdone [0xE8, 0x03]] }.Inv ∧ reading.phase = .reading ∧ reading.cur = some latch ∧
    [0xE8, (0x03 : Byte)].length = latch.rlen := ⟨reading_inv _, by decide⟩

theorem witness_OpenAndCloseFollowTheTable :
    { reading with inputs := [.closeTransport] }.inputs = [.closeTransport] ∧ reading.isOpen = true ∧ reading.phase ≠ .idle ∧
    { ready with inputs := [.closeTransport] }.inputs = [.closeTransport] ∧ ready.isOpen = true ∧ ready.phase = .idle ∧
    { ready with inputs := [.wdone 3] }.inputs = [.wdone 3] ∧ { ready with inputs := [.rdone []] }.inputs = [.rdone []] ∧
    { State.reset with inputs := [.openTransport] }.inputs = [.openTransport] ∧ State.reset.isOpen = false ∧ State.reset.phase = .idle := by decide

/-- The five cases in which a step is stuck, each in a state with the invariant. -/
theorem witness_StepIsStuckExactlyWhereTheTableListsNothing :
    ({ State.reset with isOpen := true, inputs := [] }.Inv ∧ ∃ f, step { State.reset with isOpen := true, inputs := [] } = .fault f) ∧
    ({ reading with inputs := [.wdone 4] }.Inv ∧ ∃ f, step { reading with inputs := [.wdone 4] } = .fault f) ∧
    ({ writing with inputs := [.rdone [1]] }.Inv ∧ ∃ f, step { writing with inputs := [.rdone [1]] } = .fault f) ∧
    ({ writing with inputs := [.openTransport] }.Inv ∧ ∃ f, step { writing with inputs := [.openTransport] } = .fault f) ∧
    ({ State.reset with isOpen := false, inputs := [.closeTransport] }.Inv ∧
      ∃ f, step { State.reset with isOpen := false, inputs := [.closeTransport] } = .fault f) :=
  ⟨⟨ready_inv _ _, _, rfl⟩, ⟨reading_inv _, _, rfl⟩, ⟨writing_inv _, _, rfl⟩, ⟨writing_inv _, _, rfl⟩, ⟨ready_inv _ _, _, rfl⟩⟩

theorem witness_PhaseMovesOnlyAsTheTableLists :
    (∃ t, step { ready with inputs := [.req (ask 6 .broadcast 0 0 0) 0] } = .next t ∧ t.phase = .writing) ∧
    (∃ t, step { writing with inputs := [.wdone 4] } = .next t ∧ t.phase = .reading) ∧
    (∃ t, step { reading with inputs := [.rdone [1, 2]] } = .next t ∧ t.phase = .idle) :=
  ⟨⟨_, rfl, rfl⟩, ⟨_, rfl, rfl⟩, ⟨_, rfl, rfl⟩⟩

/-- Each cause changes OUTCOME in some state. -/
theorem witness_OutcomeChangesOnlyByItsCauses :
    let old : ExchangeOutcome := .writeFailure 1
    (after (.req (ask 15 .broadcast 0 0 0) 0) { ready with outcome := some old }).map State.outcome = some (some (.validationError 0x001)) ∧
    (after (.row (.getVariableB 5) 0) { ready with outcome := some old }).map State.outcome = some (some (.validationError 0x002)) ∧
    (after (.wdone 3) { writing with outcome := some old }).map State.outcome = some (some (.writeFailure 3)) ∧
    (after (.rdone []) { reading with outcome := some old }).map State.outcome = some (some (.readShortfall 0)) ∧
    (after (.rdone [1, 0]) { reading with outcome := some old }).map State.outcome = some (some (.ok (some (.raw16 1)))) ∧
    (after .closeTransport { writing with outcome := some old }).map State.outcome = some none ∧
    (after .powerOn { ready with outcome := some old }).map State.outcome = some none ∧
    (after (.wdone 4) { writing with outcome := some old }).map (fun t => (t.phase, t.outcome)) = some (.reading, some old) := by decide

theorem witness_QueryExchangeReturnsTheDecodedReply :
    let r := ask 9 .addressed 0 0 0
    let s : State := { ready with inputs := [.req r 5, .wdone 3, .rdone [0xA1, 0x00, 0x05, 0x01]] }
    s.cfg.Admitted ∧ s.phase = .idle ∧ s.isOpen = true ∧ encodeRequest s.cfg r = .ok [0xAA, 0x00, 0x42] ∧ 7 ≤ r.cmd.toNat ∧
    [0xA1, 0x00, 0x05, (0x01 : Byte)].length = rlenOfCode r.cmd ∧
    s.inputs = .req r 5 :: .wdone [0xAA, 0x00, (0x42 : Byte)].length :: .rdone [0xA1, 0x00, 0x05, 0x01] :: [] := ⟨pgk_admitted, by decide⟩

/-- The clauses for SetLimit and GetVariable have their requests too. -/
theorem witness_QueryExchangeReturnsTheDecodedReply_clauses :
    encodeRequest Config.pgk (ask 7 .addressed 2 3000 0) = .ok [0xAA, 0x02, 0x22, 0x00, 0x38, 0x17] ∧ [(6 : Byte)].length = rlenOfCode 7 ∧
    encodeRequest Config.pgk (ask 8 .addressed 13 0 5) = .ok [0xAA, 0x0D, 0x21, 0x05] ∧ [0xE8, (3 : Byte)].length = rlenOfCode 8 := by decide

theorem witness_CommandExchangeEndsWithoutARead :
    let r := ask 6 .addressed 1 0 0
    let s : State := { ready with inputs := [.req r 5, .wdone 3] }
    s.phase = .idle ∧ s.isOpen = true ∧ encodeRequest s.cfg r = .ok [0xAA, 0x01, 0x60] ∧ r.cmd.toNat ≤ 6 ∧
    s.inputs = .req r 5 :: .wdone [0xAA, 0x01, (0x60 : Byte)].length :: [] := by decide

theorem witness_InstructionsChangeOnlyTheirOwnFields :
    (Instr.stopB.isRequest = true ∧ ∃ t, exec .stopB ready = .next t) ∧
    ((Instr.setLimitReply 3).isRequest = false ∧ ∃ t, exec (.setLimitReply 3) reading = .next t) := ⟨⟨rfl, _, rfl⟩, rfl, _, rfl⟩

theorem witness_StepRunsTheDecodedRow :
    { ready with inputs := [.row (.setLimitB 0 5) 4] }.inputs = [.row (.setLimitB 0 5) 4] ∧ decodeWord ready.cfg (bytesOfWord (8 / 8) 0xE0) = .ok .stopB ∧
    decodeWord ready.cfg (bytesOfWord (32 / 8) 0xA2000500) = .error .broadcastResponse ∧
    State.reset.cfg = Config.pgk ∧ decodeTableWord 40 0xAA0105007F = none ∧ decodeTableWord 40 0xAA01050064 = some (.motorForwardA 1 3200) := by decide

theorem witness_StepRunsTheRequestedRow :
    { ready with inputs := [.req (ask 5 .broadcast 0 32 0) 4] }.inputs = [.req (ask 5 .broadcast 0 32 0) 4] ∧
    Instr.ofReq (ask 5 .broadcast 0 32 0) = some (.brakeB 32) := by decide

theorem witness_EveryStepKeepsTheInvariant :
    { reading with inputs := [.rdone [1, 2]] }.Inv ∧ ∃ t, step { reading with inputs := [.rdone [1, 2]] } = .next t :=
  ⟨reading_inv _, _, rfl⟩

theorem witness_FaultNamesAreSticky :
    (∃ t, step { reading with inputs := [.req (ask 6 .broadcast 0 0 0) 0] } = .next t) ∧
    ∀ rest, { reading with inputs := [.req (ask 6 .broadcast 0 0 0) 0] }.inputs ≠ .powerOn :: rest := ⟨⟨_, rfl⟩, by intro _ h; cases h⟩

/-- Each of the six names is added by some step from a state with the invariant. -/
theorem witness_FaultNamesAreAddedOnlyByTheirCause :
    let d (c : BitVec 4) : DecIn := { dcmd := c, rbuf := { b0 := 1, b1 := 2, b2 := 3, b3 := 4 }, rcnt := 0 }
    ({ reading with inputs := [.req (ask 6 .broadcast 0 0 0) 0] }.Inv ∧
      (after (.req (ask 6 .broadcast 0 0 0) 0) reading).map (fun t => t.fault.busy) = some true) ∧
    ({ State.reset with isOpen := false, inputs := [.row .stopB 0] }.Inv ∧
      (after (.row .stopB 0) State.reset).map (fun t => t.fault.notOpen) = some true) ∧
    ({ reading with inputs := [.rdone [1, 2, 3]] }.Inv ∧ (after (.rdone [1, 2, 3]) reading).map (fun t => t.fault.transportContract) = some true) ∧
    ({ reading with inputs := [.evalDecoder (d 6)] }.Inv ∧ (after (.evalDecoder (d 6)) reading).map (fun t => t.fault.noDecodePath) = some true) ∧
    ({ reading with inputs := [.evalDecoder (d 7)] }.Inv ∧ (after (.evalDecoder (d 7)) reading).map (fun t => t.fault.shortInput) = some true) ∧
    ({ reading with inputs := [.read .verr] }.Inv ∧ (after (.read .verr) reading).map (fun t => t.fault.noValue) = some true) :=
  ⟨⟨reading_inv _, by decide⟩, ⟨ready_inv _ _, by decide⟩, ⟨reading_inv _, by decide⟩, ⟨reading_inv _, by decide⟩,
   ⟨reading_inv _, by decide⟩, ⟨reading_inv _, by decide⟩⟩

theorem witness_StreamSuspectIsSetOnlyByItsCausesAndKept :
    (∃ t, step { reading with inputs := [.closeTransport] } = .next t ∧ reading.suspect = false ∧ t.suspect = true) ∧
    (∃ t, step { reading with inputs := [.rdone [1]] } = .next t ∧ t.suspect = true) ∧
    (∃ t, step { reading with suspect := true, inputs := [.rdone [1, 2]] } = .next t) :=
  ⟨⟨_, rfl, rfl, rfl⟩, ⟨_, rfl, rfl⟩, ⟨_, rfl⟩⟩

theorem witness_ConfigurationIsFixedAndOpenIsTheCallers :
    ∃ t, step { State.reset with inputs := [.openTransport] } = .next t ∧ t.isOpen ≠ State.reset.isOpen := ⟨_, rfl, by decide⟩

theorem witness_MarksAndPortsNeverChangeAnExchange :
    let s := { reading with inputs := [.rdone [1, 2]] }
    let s' := { reading with inputs := [.rdone [1, 2]], suspect := true, encIn := ask 12 .broadcast 9 9 9, readBack := some (.bits 3) }
    s.cfg = s'.cfg ∧ s.phase = s'.phase ∧ s.cur = s'.cur ∧ s.curTimeout = s'.curTimeout ∧ s.isOpen = s'.isOpen ∧ s.outcome = s'.outcome ∧
    s.calls = s'.calls ∧ s.wire = s'.wire ∧ s.inputs = s'.inputs ∧ s ≠ s' := ⟨rfl, rfl, rfl, rfl, rfl, rfl, rfl, rfl, rfl, by decide⟩

theorem witness_WireGrowsOnlyByTheFrameInFlight :
    ∃ t, step { writing with inputs := [.wdone 2] } = .next t ∧ t.wire = [0xAA, 0x0D] := ⟨_, rfl, rfl⟩

theorem witness_EncoderEvaluationWritesOnlyItsPorts :
    { reading with inputs := [.evalEncoder (ask 15 .addressed 255 0 0)] }.inputs = [.evalEncoder (ask 15 .addressed 255 0 0)] := by decide

/-- Every clause: before any evaluation, after an encoder evaluation, and after each decode path, in a state whose caller reads. -/
theorem witness_ReadingNoValueIsAFault :
    let s : State := { ready with inputs := [.read .flen] }
    let e : State := { s with enc := some (encOut Config.pgk (ask 6 .broadcast 0 0 0)), outcome := some (.ok none) }
    s.inputs = [.read .flen] ∧ portValue .flen s = none ∧ s.enc = none ∧ s.outcome = none ∧ s.dec = none ∧
    portValue (.frame 0) e = some (.bits 0xE0) ∧ portValue (.frame 1) e = none ∧ portValue .flen e = some (.bits 1) ∧
    portValue .outcome e = some (.outcome (.ok none)) ∧
    portValue .lstat { s with dec := some (.limitStatus 2) } = some (.bits 2) ∧
    portValue .vraw { s with dec := some (.raw16 0x1234) } = some (.bits 0x1234) ∧
    portValue .fwMajor { s with dec := some (.firmware 0x0201 0x10 0x02) } = some (.bits 2) := by decide

/-- Program 5's end: the exchange was abandoned, its late read completion is still pending, and the run is over. -/
theorem witness_AfterTheRunTheDecoderOutputsHoldNoValue :
    { State.reset with isOpen := false, inputs := [.rdone [1, 2, 3, 4]] }.Inv ∧
    { State.reset with isOpen := false, inputs := [.rdone [1, 2, 3, 4]] }.runOver := ⟨ready_inv _ _, by decide⟩

/-- A decode result stands while the caller goes on, and is no output after the run. -/
theorem test_run_over :
    let s : State := { State.reset with dec := some (.raw16 7) }
    portValue .vraw s = none ∧ portValue .vraw { s with inputs := [.read .vraw] } = some (.bits 7) ∧
    (after (.read .vraw) s).map State.readBack = some (some (.bits 7)) ∧ portValue .vraw { s with isOpen := true } = some (.bits 7) := by decide

theorem witness_PowerOnResetSetsEveryField : { reading with inputs := [.powerOn] }.inputs = [.powerOn] := by decide

end Sys2Proof.Tests
end

/-! ### Scope (spec/00_scope.md): every row has a next state, and the encoder evaluated alone -/

namespace Sys2Proof.Machine

/-- A row is a request step or one decoder evaluation, and both always answer a state: a rejection and a model fault are
states (R191, R192). -/
theorem exec_next (i : Instr) (s : State) : ∃ t, exec i s = .next t := by
  cases hi : i.isRequest with
  | true =>
    rw [exec_request s i hi]
    exact request_next s (rowRequest i s.encIn)
  | false => exact ⟨_, exec_reply s i hi⟩

/-- Settles O41: a request row by `request_next`, a reply row by `exec_reply`. -/
theorem everyInstructionAnswersANextState : Obligations.EveryInstructionAnswersANextState := exec_next

/-- Settles O53: the step takes the event and is then `evalEncoder`, whatever PHASE and OPEN hold. -/
theorem encoderEvaluationWritesOnlyItsPorts : Obligations.EncoderEvaluationWritesOnlyItsPorts := by
  intro s r rest hinputs
  calc step s = runEvent (.evalEncoder r) { s with inputs := rest } := step_cons s hinputs
    _ = .next (evalEncoder r { s with inputs := rest }) := rfl
    _ = .next { s with inputs := rest, encIn := r, enc := some (encOut s.cfg r) } := rfl

end Sys2Proof.Machine

/-! ### State (spec/10_state.md): the invariant -/

namespace Sys2Proof.Machine

/-! #### The encoder's answers -/

/-- A frame has its static length, 1 to 6 bytes (R88). -/
theorem encodeRequest_length {cfg : Config} {r : Req} {frame : List Byte} (h : encodeRequest cfg r = .ok frame) :
    flenOf r = frame.length ∧ 1 ≤ frame.length ∧ frame.length ≤ 6 := by
  obtain ⟨c, hc, -, hok⟩ | ⟨-, herr⟩ := encodeRequest_cases cfg r
  · obtain rfl : _ = frame := Except.ok.inj (hok.symm.trans h)
    have hpre := framePrefix_length r.mode r.dev
    have hmode : r.mode.pre ≤ 3 := by cases r.mode <;> decide
    have hplen : c.plen ≤ 3 := by cases c <;> decide
    rw [flenOf_eq r hc, List.length_append, List.length_cons, payload_length]
    omega
  · cases herr.symm.trans h

/-- The encoder fails only with a violated check (R125). -/
theorem encodeRequest_error_ne_zero {cfg : Config} {r : Req} {v : BitVec 9} (h : encodeRequest cfg r = .error v) : v ≠ 0 := by
  obtain ⟨c, -, -, hok⟩ | ⟨hv, herr⟩ := encodeRequest_cases cfg r
  · cases hok.symm.trans h
  · exact Except.error.inj (herr.symm.trans h) ▸ hv

/-- The encoder's outputs agree with each other after every evaluation (R22). -/
theorem encOut_consistent (cfg : Config) (r : Req) : (encOut cfg r).Consistent := by
  have hrlen := rlenOfCode_le_four r.cmd
  have hrleno : (BitVec.ofNat 3 (rlenOfCode r.cmd)).toNat ≤ 4 := by rw [BitVec.toNat_ofNat]; omega
  cases h : encodeRequest cfg r with
  | ok frame =>
    obtain ⟨hflen, hpos, hmax⟩ := encodeRequest_length h
    have htoNat : (BitVec.ofNat 3 (flenOf r)).toNat = frame.length := by rw [BitVec.toNat_ofNat]; omega
    rw [encOut_ok cfg r h]
    refine ⟨htoNat.symm, htoNat ▸ hmax, hrleno, fun h0 => ?_, fun hv => absurd rfl hv⟩
    have : (BitVec.ofNat 3 (flenOf r)).toNat = 0 := congrArg BitVec.toNat h0
    omega
  | error v =>
    rw [encOut_error cfg r h]
    exact ⟨rfl, Nat.zero_le 6, hrleno, fun _ => encodeRequest_error_ne_zero h, fun _ => rfl⟩

/-! #### The latch -/

/-- A legal latch's frame has 1 to 6 bytes. -/
theorem Latch.Legal.flen_bounds {cfg : Config} {l : Latch} (h : l.Legal cfg) : l.flen = l.frame.length ∧ 1 ≤ l.flen ∧ l.flen ≤ 6 := by
  obtain ⟨r, -, hframe, hflen, -⟩ := h
  obtain ⟨-, hpos, hmax⟩ := encodeRequest_length hframe
  omega

/-- A legal latch expects no reply, or one of 1, 2 or 4 bytes (R87). -/
theorem Latch.Legal.rlen_cases {cfg : Config} {l : Latch} (h : l.Legal cfg) : l.rlen = 0 ∨ l.rlen = 1 ∨ l.rlen = 2 ∨ l.rlen = 4 := by
  obtain ⟨-, -, -, -, hrlen⟩ := h
  by_cases h0 : rlenOfCode l.cmd = 0
  · exact .inl (hrlen.trans h0)
  · right
    obtain hc | hc | hc := rlenOfCode_ne_zero h0 <;> rw [hrlen, hc] <;> decide

/-- What a valid request latches is legal (R193). -/
theorem latch_legal_of_encode {cfg : Config} {r : Req} {frame : List Byte} (h : encodeRequest cfg r = .ok frame) :
    Latch.Legal cfg ⟨r.cmd, frame, flenOf r, rlenOfCode r.cmd⟩ :=
  ⟨r, rfl, h, (encodeRequest_length h).1, rfl⟩

/-! #### What keeps the invariant

An update of fields that the invariant does not mention (ports but the encoder's outputs, marks, the schedule, the bytes handed over) keeps it by its own
clauses: `{ h with }`. -/

namespace State.Inv

variable {s t : State}

theorem cur_of_idle (h : s.Inv) (hp : s.phase = .idle) : s.cur = none := by
  cases hc : s.cur with
  | none => rfl
  | some l => exact absurd hp (h.latchIffBusy.mp (by simp [hc]))

theorem curTimeout_of_idle (h : s.Inv) (hp : s.phase = .idle) : s.curTimeout = none := by
  cases hc : s.curTimeout with
  | none => rfl
  | some n => exact absurd hp (h.timeoutIffBusy.mp (by simp [hc]))

/-- The invariant says nothing about the schedule. -/
theorem withInputs (h : s.Inv) (es : List Event) : { s with inputs := es }.Inv := { h with }

/-- Between exchanges nothing is latched and no call is outstanding, so only the history, the encoder's ports and OUTCOME are left to check. -/
theorem of_idle (h : s.Inv) (hcfg : t.cfg = s.cfg) (hphase : t.phase = .idle) (hcur : t.cur = none) (htimeout : t.curTimeout = none)
    (hcalls : t.calls = s.calls) (henc : ∀ e, t.enc = some e → e.Consistent) (houtcome : ∀ o, t.outcome = some o → o.InRange) : t.Inv where
  admitted := hcfg ▸ h.admitted
  latchIffBusy := by simp [hcur, hphase]
  timeoutIffBusy := by simp [htimeout, hphase]
  openWhileBusy := fun hbusy => absurd hphase hbusy
  latchLegal := by simp [hcur]
  readingExpects := by simp [hphase]
  writeOutstanding := by simp [hphase]
  readOutstanding := by simp [hphase]
  ordered := hcalls ▸ h.ordered
  encConsistent := henc
  outcomeInRange := houtcome

/-- The end of an exchange with an outcome in range keeps the invariant. -/
theorem finish (h : s.Inv) {o : ExchangeOutcome} (ho : o.InRange) : (finish o s).Inv :=
  h.of_idle rfl rfl rfl rfl rfl h.encConsistent fun _ ho' => Option.some.inj ho' ▸ ho

/-- The issue of a valid request's write keeps the invariant (R193). -/
theorem issueWrite (h : s.Inv) (hopen : s.isOpen = true) {r : Req} {frame : List Byte} (hf : encodeRequest s.cfg r = .ok frame) :
    (issueWrite r frame (evalEncoder r s)).Inv where
  admitted := h.admitted
  latchIffBusy := by simp
  timeoutIffBusy := by simp
  openWhileBusy := fun _ => hopen
  latchLegal := by
    rintro l ⟨⟩
    exact latch_legal_of_encode hf
  readingExpects := by simp
  writeOutstanding := by
    rintro - l ⟨⟩
    exact ⟨s.calls, rfl⟩
  readOutstanding := by simp
  ordered := by
    obtain ⟨hflen, hpos, hmax⟩ := encodeRequest_length hf
    exact ⟨hflen, hflen ▸ hpos, hflen ▸ hmax, h.ordered⟩
  encConsistent := by
    rintro e ⟨⟩
    exact encOut_consistent s.cfg r
  outcomeInRange := h.outcomeInRange

/-- The issue of the read that follows the whole write keeps the invariant (R197, R208). -/
theorem issueRead (h : s.Inv) (hp : s.phase = .writing) {l : Latch} {n : Nat} (hl : s.cur = some l) (ht : s.curTimeout = some n)
    (hpos : 0 < l.rlen) : (issueRead l.rlen n s).Inv := by
  obtain ⟨rest, hcalls⟩ := h.writeOutstanding hp l hl
  exact {
    admitted := h.admitted
    latchIffBusy := by simp [hl]
    timeoutIffBusy := by simp [ht]
    openWhileBusy := fun _ => h.openWhileBusy (by simp [hp])
    latchLegal := h.latchLegal
    readingExpects := fun _ l' hl' => Option.some.inj (hl.symm.trans hl') ▸ hpos
    writeOutstanding := by simp
    readOutstanding := by
      intro _ l' n' hl' hn'
      obtain rfl := Option.some.inj (hl.symm.trans hl')
      obtain rfl := Option.some.inj (ht.symm.trans hn')
      exact ⟨rest, by simp [hcalls]⟩
    ordered := by
      have hordered := h.ordered
      have hrlen := (h.latchLegal l hl).rlen_cases
      rw [hcalls] at hordered
      obtain ⟨hlen, hmin, hmax, hrest⟩ := hordered
      rw [issueRead_calls, hcalls]
      exact ⟨hrlen.resolve_left (Nat.pos_iff_ne_zero.mp hpos), hlen, hmin, hmax, hrest⟩
    encConsistent := h.encConsistent
    outcomeInRange := h.outcomeInRange }

/-- The observation of handed-over bytes is not in the invariant. -/
theorem handOver (h : s.Inv) (frame : List Byte) (w : Nat) : (handOver frame w s).Inv := { h with }

theorem completeWrite (h : s.Inv) (hp : s.phase = .writing) {l : Latch} {n : Nat} (hl : s.cur = some l) (ht : s.curTimeout = some n) (w : Nat) :
    (completeWrite w l n s).Inv := by
  have hwire := h.handOver l.frame w
  obtain ⟨-, hmax⟩ := (h.latchLegal l hl).flen_bounds.2
  obtain ⟨-, hx⟩ | ⟨hw, hx⟩ | ⟨-, -, hx⟩ | ⟨-, hpos, hx⟩ := completeWrite_cases s w l n <;> rw [hx]
  · exact { h with }
  · exact hwire.finish (o := .writeFailure w) (Nat.lt_of_lt_of_le hw hmax)
  · exact hwire.finish (o := .ok none) trivial
  · exact hwire.issueRead hp hl ht hpos

theorem completeRead (h : s.Inv) {l : Latch} (hl : s.cur = some l) (bytes : List Byte) : (completeRead bytes l s).Inv := by
  have hrlen := (h.latchLegal l hl).rlen_cases
  obtain ⟨-, hx⟩ | ⟨hc, hx⟩ | ⟨-, res, -, hx⟩ | ⟨-, f, -, hx⟩ := completeRead_cases s bytes l <;> rw [hx]
  · exact { h with }
  · have hshort : ExchangeOutcome.InRange (.readShortfall bytes.length) := by
      show bytes.length < 4
      omega
    exact { h.finish hshort with }
  · have hdecoded : (writeDecoded res (driveDecoder (replyInputs bytes l s) s)).Inv := { h with }
    exact hdecoded.finish (o := .ok (some res)) trivial
  · exact { h with }

theorem evalDecoder (h : s.Inv) (d : DecIn) : (evalDecoder d s).Inv := by
  obtain ⟨res, -, hx⟩ | ⟨f, -, -, hx⟩ := evalDecoder_cases d s <;> rw [hx]
  · exact { h with }
  · exact { h with }

theorem readPort (h : s.Inv) (p : Port) : (readPort p s).Inv := by
  obtain ⟨v, -, hx⟩ | ⟨-, hx⟩ := readPort_cases s p <;> rw [hx]
  · exact { h with }
  · exact { h with }

/-- Every transition keeps the invariant. -/
theorem transition {e : Event} (h : s.Inv) (ht : Transition s e t) : t.Inv := by
  cases ht with
  | busy | notOpen | reply | writeNoValue | readNoValue => exact { h with }
  | invalid p q n v _ hp _ hv =>
    refine h.of_idle rfl hp (h.cur_of_idle hp) (h.curTimeout_of_idle hp) rfl ?_ ?_
    · rintro e ⟨⟩
      exact encOut_consistent s.cfg q
    · rintro o ⟨⟩
      exact encodeRequest_error_ne_zero hv
  | issue p q n frame _ _ ho hf =>
    have hdriven : { s with encIn := p, timeoutIn := n }.Inv := { h with }
    exact hdriven.issueWrite ho hf
  | written w l n hp _ hl hn => exact h.completeWrite hp hl hn w
  | obtained bytes l _ _ hl => exact h.completeRead hl bytes
  | opened hp _ | closed hp _ =>
    exact h.of_idle rfl hp (h.cur_of_idle hp) (h.curTimeout_of_idle hp) rfl h.encConsistent h.outcomeInRange
  | abandoned => exact h.of_idle rfl rfl rfl rfl rfl h.encConsistent (by simp)
  | encoder r =>
    have hports : ∀ e, (evalEncoder r s).enc = some e → e.Consistent := by
      rintro e ⟨⟩
      exact encOut_consistent s.cfg r
    exact { h with encConsistent := hports }
  | decoder d => exact h.evalDecoder d
  | read p => exact h.readPort p
  | reset => exact h.of_idle rfl rfl rfl rfl rfl (by simp) (by simp)

end State.Inv

/-- Settles O45: a step takes the first event, which the invariant does not mention, and makes one transition (`State.Inv.transition`). -/
theorem everyStepKeepsTheInvariant : Obligations.EveryStepKeepsTheInvariant := by
  intro s t h hstep
  obtain ⟨e, rest, -, ht⟩ := step_cases hstep
  exact (h.withInputs rest).transition ht

/-- Settles O46: State.reset is the closed machine with nothing scheduled, before any exchange. -/
theorem invariantHoldsAtReset : Obligations.InvariantHoldsAtReset := Tests.ready_inv false []

end Sys2Proof.Machine

/-! ### State (spec/10_state.md): two states in the same exchange -/

namespace Sys2Proof.Machine

/-- The states agree on everything an exchange reads and shows (R35): they may differ in the marks STREAM_SUSPECT and FAULT, in the encoder's and
decoder's ports, in TIMEOUT (each request event drives it anew) and in the last read value. -/
structure SameExchange (s t : State) : Prop where
  cfg : s.cfg = t.cfg
  phase : s.phase = t.phase
  cur : s.cur = t.cur
  curTimeout : s.curTimeout = t.curTimeout
  isOpen : s.isOpen = t.isOpen
  outcome : s.outcome = t.outcome
  calls : s.calls = t.calls
  wire : s.wire = t.wire
  inputs : s.inputs = t.inputs

namespace SameExchange

variable {s s' t t' : State}

/-- Two states in the same exchange stay so when each moves within its own. -/
theorem congr (h : SameExchange s s') (ht : SameExchange s t) (ht' : SameExchange s' t') : SameExchange t t' where
  cfg := ht.cfg.symm.trans (h.cfg.trans ht'.cfg)
  phase := ht.phase.symm.trans (h.phase.trans ht'.phase)
  cur := ht.cur.symm.trans (h.cur.trans ht'.cur)
  curTimeout := ht.curTimeout.symm.trans (h.curTimeout.trans ht'.curTimeout)
  isOpen := ht.isOpen.symm.trans (h.isOpen.trans ht'.isOpen)
  outcome := ht.outcome.symm.trans (h.outcome.trans ht'.outcome)
  calls := ht.calls.symm.trans (h.calls.trans ht'.calls)
  wire := ht.wire.symm.trans (h.wire.trans ht'.wire)
  inputs := ht.inputs.symm.trans (h.inputs.trans ht'.inputs)

/-- No exchange reads a port, TIMEOUT, a mark or the last read value, whatever is written to them. -/
theorem of_ports (s : State) (encIn : Req) (timeoutIn : Nat) (enc : Option EncOut) (decIn : DecIn) (dec : Option DecResult)
    (suspect : Bool) (fault : FaultSet) (readBack : Option PortValue) :
    SameExchange s { s with
      encIn := encIn, timeoutIn := timeoutIn, enc := enc, decIn := decIn, dec := dec, suspect := suspect, fault := fault
      readBack := readBack } :=
  ⟨rfl, rfl, rfl, rfl, rfl, rfl, rfl, rfl, rfl⟩

theorem of_raise (f : FaultName) (s : State) : SameExchange s (raise f s) := of_ports s ..

theorem of_evalEncoder (r : Req) (s : State) : SameExchange s (evalEncoder r s) := of_ports s ..

theorem of_decoded (res : DecResult) (d : DecIn) (s : State) : SameExchange s (writeDecoded res (driveDecoder d s)) :=
  of_ports s ..

theorem of_raise_driveDecoder (f : FaultName) (d : DecIn) (s : State) : SameExchange s (raise f (driveDecoder d s)) :=
  of_ports s ..

theorem of_driveRequest (r : Req) (n : Nat) (s : State) : SameExchange s (driveRequest r n s) := of_ports s ..

theorem of_timeoutIn (n : Nat) (s : State) : SameExchange s { s with timeoutIn := n } := of_ports s ..

theorem of_evalDecoder (d : DecIn) (s : State) : SameExchange s (evalDecoder d s) := by
  obtain ⟨res, -, hx⟩ | ⟨f, -, -, hx⟩ := evalDecoder_cases d s <;> rw [hx]
  · exact of_decoded res d s
  · exact of_raise_driveDecoder f d s

theorem of_readPort (p : Port) (s : State) : SameExchange s (readPort p s) := by
  obtain ⟨v, -, hx⟩ | ⟨-, hx⟩ := readPort_cases s p <;> rw [hx]
  · exact of_ports s ..
  · exact of_raise .noValue s

/-! The sequencer's updates: made in two states of the same exchange, they give two states of the same exchange. -/

theorem raised (h : SameExchange s s') (f : FaultName) : SameExchange (raise f s) (raise f s') :=
  h.congr (of_raise f s) (of_raise f s')

theorem finished (h : SameExchange s s') (o : ExchangeOutcome) : SameExchange (finish o s) (finish o s') :=
  { h with phase := rfl, cur := rfl, curTimeout := rfl, outcome := rfl }

theorem rejected (h : SameExchange s s') (v : BitVec 9) : SameExchange (rejectRequest v s) (rejectRequest v s') :=
  { h with outcome := rfl }

theorem readIssued (h : SameExchange s s') (n t : Nat) : SameExchange (issueRead n t s) (issueRead n t s') :=
  { h with phase := rfl, calls := by simp [h.calls] }

theorem handedOver (h : SameExchange s s') (frame : List Byte) (w : Nat) : SameExchange (handOver frame w s) (handOver frame w s') :=
  { h with wire := congrArg (· ++ frame.take w) h.wire }

theorem abandoned (h : SameExchange s s') : SameExchange (abandon s) (abandon s') :=
  { h with isOpen := rfl, outcome := rfl, phase := rfl, cur := rfl, curTimeout := rfl }

theorem poweredOn (h : SameExchange s s') : SameExchange (powerOn s) (powerOn s') :=
  { h with isOpen := rfl, outcome := rfl, phase := rfl, cur := rfl, curTimeout := rfl }

/-- A write is issued from the request's code and length and from TIMEOUT; the ports' other values do not matter. -/
theorem writeIssued (h : SameExchange s s') {q q' : Req} (hcmd : q.cmd = q'.cmd) (hlen : flenOf q = flenOf q') (frame : List Byte)
    (htimeout : s.timeoutIn = s'.timeoutIn) : SameExchange (issueWrite q frame s) (issueWrite q' frame s') :=
  { h with
    phase := rfl
    cur := by simp [hcmd, hlen]
    curTimeout := congrArg some htimeout
    calls := by simp [hlen, h.calls] }

end SameExchange

/-! ### Two answers alike -/

/-- Two answers of the machine that an exchange cannot tell apart (R35). -/
inductive Alike : Result → Result → Prop
  | next {t t' : State} : SameExchange t t' → Alike (.next t) (.next t')
  | fault (f : Fault) : Alike (.fault f) (.fault f)
  | refused (r : Refusal) : Alike (.refused r) (.refused r)

variable {s s' : State}

/-- A request is answered alike wherever the encoder answers alike. -/
theorem request_alike (h : SameExchange s s') {q q' : Req} (hcmd : q.cmd = q'.cmd) (hmode : q.mode = q'.mode)
    (henc : encodeRequest s.cfg q = encodeRequest s.cfg q') (htimeout : s.timeoutIn = s'.timeoutIn) :
    Alike (request q s) (request q' s') := by
  have heval : SameExchange (evalEncoder q s) (evalEncoder q' s') := h.congr (.of_evalEncoder q s) (.of_evalEncoder q' s')
  have hlen : flenOf q = flenOf q' := by simp [flenOf, hcmd, hmode]
  unfold request
  rw [← h.phase, ← h.isOpen, ← h.cfg, ← henc]
  cases s.phase with
  | writing => exact .next (h.raised .busy)
  | reading => exact .next (h.raised .busy)
  | idle =>
    cases s.isOpen with
    | false => exact .next (h.raised .notOpen)
    | true =>
      cases encodeRequest s.cfg q with
      | error v => exact .next (heval.rejected v)
      | ok frame => exact .next (heval.writeIssued hcmd hlen frame htimeout)

/-- A row's request does not depend on what the ports it does not list held before (R127): every VERR condition that reads such a port is false by the row's
command or mode alone, and the frame holds none of them. -/
theorem rowRequest_congr (cfg : Config) (i : Instr) (hi : i.isRequest = true) (p p' : Req) :
    (rowRequest i p).cmd = (rowRequest i p').cmd ∧ (rowRequest i p).mode = (rowRequest i p').mode ∧
    encodeRequest cfg (rowRequest i p) = encodeRequest cfg (rowRequest i p') := by
  cases i
  case setLimitReply | getVariableReply | getFirmwareReply => cases hi
  all_goals exact ⟨rfl, rfl, rfl⟩

/-- A reply's bytes stand in RBUF whatever it held before, as many as were received (R200). -/
theorem load_congr (b b' : ReplyBuffer) (bytes : List Byte) :
    (1 ≤ bytes.length → (b.load bytes).b0 = (b'.load bytes).b0) ∧
    (2 ≤ bytes.length → (b.load bytes).b1 = (b'.load bytes).b1) ∧
    (4 ≤ bytes.length → b.load bytes = b'.load bytes) := by
  match bytes with
  | [] => simp
  | [_] => simp [ReplyBuffer.load]
  | [_, _] => simp [ReplyBuffer.load]
  | [_, _, _] => simp [ReplyBuffer.load]
  | _ :: _ :: _ :: _ :: _ => simp [ReplyBuffer.load]

/-- The decoder reads only bytes of the reply itself: whatever RBUF held before, a reply decodes to the same (R173). -/
theorem decodeResponse_load_congr (code : BitVec 4) (bytes : List Byte) (b b' : ReplyBuffer) :
    decodeResponse { dcmd := code, rbuf := b.load bytes, rcnt := BitVec.ofNat 3 bytes.length } =
      decodeResponse { dcmd := code, rbuf := b'.load bytes, rcnt := BitVec.ofNat 3 bytes.length } := by
  by_cases h0 : rlenOfCode code = 0
  · rw [decodeResponse_noPath _ h0, decodeResponse_noPath _ h0]
  by_cases hshort : (BitVec.ofNat 3 bytes.length).toNat < rlenOfCode code
  · rw [decodeResponse_short _ h0 hshort, decodeResponse_short _ h0 hshort]
  have hcnt := Nat.not_lt.mp hshort
  have hlen : rlenOfCode code ≤ bytes.length := hcnt.trans (BitVec.toNat_ofNat bytes.length 3 ▸ Nat.mod_le _ _)
  obtain ⟨hb0, hb1, hall⟩ := load_congr b b' bytes
  obtain hc | hc | hc := rlenOfCode_ne_zero h0 <;> rw [hc, rlenOfCode_code] at hcnt hlen
  · have hone (x : ReplyBuffer) := decodeResponse_setLimit ⟨code, x.load bytes, BitVec.ofNat 3 bytes.length⟩ hc hcnt
    rw [hone, hone, hb0 hlen]
  · have htwo (x : ReplyBuffer) := decodeResponse_getVariable ⟨code, x.load bytes, BitVec.ofNat 3 bytes.length⟩ hc hcnt
    rw [htwo, htwo, hb0 (Nat.le_of_lt hlen), hb1 hlen]
  · rw [hall hlen]

/-- A write completion treats two states of one exchange alike. -/
theorem completeWrite_congr (h : SameExchange s s') (w : Nat) (l : Latch) (t : Nat) :
    SameExchange (completeWrite w l t s) (completeWrite w l t s') := by
  have hwire := h.handedOver l.frame w
  unfold completeWrite
  split
  · exact h.raised .transportContract
  split
  · exact hwire.finished (.writeFailure w)
  split
  · exact hwire.finished (.ok none)
  · exact hwire.readIssued l.rlen t

/-- A read completion treats two states of one exchange alike: the reply is decoded from its own bytes. -/
theorem completeRead_congr (h : SameExchange s s') (bytes : List Byte) (l : Latch) :
    SameExchange (completeRead bytes l s) (completeRead bytes l s') := by
  have hshort := h.finished (.readShortfall bytes.length)
  unfold completeRead
  split
  · exact h.raised .transportContract
  split
  · exact { hshort with }
  simp only [decodeResponse_load_congr l.cmd bytes s.decIn.rbuf s'.decIn.rbuf]
  split
  next res _ => exact (h.congr (.of_decoded res _ s) (.of_decoded res _ s')).finished (.ok (some res))
  next f _ => exact h.congr (.of_raise_driveDecoder f _ s) (.of_raise_driveDecoder f _ s')

theorem writeDone_alike (h : SameExchange s s') (w : Nat) : Alike (writeDone w s) (writeDone w s') := by
  unfold writeDone
  rw [← h.phase, ← h.isOpen, ← h.cur, ← h.curTimeout]
  split
  · split
    · exact .next (completeWrite_congr h w _ _)
    · exact .next (h.raised .noValue)
  · exact .fault .completionHasNoStep

theorem readDone_alike (h : SameExchange s s') (bytes : List Byte) : Alike (readDone bytes s) (readDone bytes s') := by
  unfold readDone
  rw [← h.phase, ← h.isOpen, ← h.cur]
  split
  · split
    · exact .next (completeRead_congr h bytes _)
    · exact .next (h.raised .noValue)
  · exact .fault .completionHasNoStep

theorem openTransport_alike (h : SameExchange s s') : Alike (openTransport s) (openTransport s') := by
  unfold openTransport
  rw [← h.phase, ← h.isOpen]
  split
  · exact .next { h with phase := rfl, isOpen := rfl }
  · exact .fault .openHasNoStep

theorem closeTransport_alike (h : SameExchange s s') : Alike (closeTransport s) (closeTransport s') := by
  unfold closeTransport
  rw [← h.phase, ← h.isOpen]
  split
  · exact .next { h with phase := rfl, isOpen := rfl }
  · exact .next h.abandoned
  · exact .next h.abandoned
  · exact .fault .closeHasNoStep

/-- A row is run alike: a request row presents the same request, a reply row writes only the decoder's ports. -/
theorem exec_alike (h : SameExchange s s') (htimeout : s.timeoutIn = s'.timeoutIn) (i : Instr) : Alike (exec i s) (exec i s') := by
  cases hi : i.isRequest with
  | true =>
    obtain ⟨hcmd, hmode, henc⟩ := rowRequest_congr s.cfg i hi s.encIn s'.encIn
    rw [exec_request s i hi, exec_request s' i hi]
    exact request_alike h hcmd hmode henc htimeout
  | false =>
    rw [exec_reply s i hi, exec_reply s' i hi]
    exact .next (h.congr (.of_evalDecoder _ s) (.of_evalDecoder _ s'))

theorem runEvent_alike (h : SameExchange s s') (e : Event) : Alike (runEvent e s) (runEvent e s') := by
  cases e with
  | req r n =>
    have hr : Alike (request r (driveRequest r n s)) (request r (driveRequest r n s')) :=
      request_alike (h.congr (.of_driveRequest r n s) (.of_driveRequest r n s')) rfl rfl rfl rfl
    rwa [← runRequest_eq, ← runRequest_eq] at hr
  | row i n => exact exec_alike (h.congr (.of_timeoutIn n s) (.of_timeoutIn n s')) rfl i
  | wdone w => exact writeDone_alike h w
  | rdone bytes => exact readDone_alike h bytes
  | openTransport => exact openTransport_alike h
  | closeTransport => exact closeTransport_alike h
  | evalEncoder r => exact .next (h.congr (.of_evalEncoder r s) (.of_evalEncoder r s'))
  | evalDecoder d => exact .next (h.congr (.of_evalDecoder d s) (.of_evalDecoder d s'))
  | read p => exact .next (h.congr (.of_readPort p s) (.of_readPort p s'))
  | powerOn => exact .next h.poweredOn

theorem step_alike (h : SameExchange s s') : Alike (step s) (step s') := by
  cases hi : s.inputs with
  | nil =>
    rw [step_nil s hi, step_nil s' (h.inputs ▸ hi)]
    exact .fault .noEvent
  | cons e rest =>
    rw [step_cons s hi, step_cons s' (h.inputs ▸ hi)]
    have hrest : SameExchange { s with inputs := rest } { s' with inputs := rest } := { h with inputs := rfl }
    exact runEvent_alike hrest e

/-- Settles O51: `SameExchange` is kept by every event, each by the congruence of the operation it runs (`step_alike`). -/
theorem marksAndPortsNeverChangeAnExchange : Obligations.MarksAndPortsNeverChangeAnExchange := by
  intro s s' hcfg hphase hcur htimeout hopen houtcome hcalls hwire hinputs
  have h : Alike (step s) (step s') := step_alike ⟨hcfg, hphase, hcur, htimeout, hopen, houtcome, hcalls, hwire, hinputs⟩
  generalize step s = x, step s' = x' at h
  cases h with
  | next ht =>
    obtain ⟨hcfg, hphase, hcur, htimeout, hopen, houtcome, hcalls, hwire, hinputs⟩ := ht
    exact .inr (.inr ⟨_, _, rfl, rfl, hcfg, hphase, hcur, htimeout, hopen, houtcome, hcalls, hwire, hinputs⟩)
  | fault f => exact .inl ⟨f, rfl, rfl⟩
  | refused r => exact .inr (.inl ⟨r, rfl, rfl⟩)

end Sys2Proof.Machine

/-! ### State (spec/10_state.md): what changes each field, and what a read obtains -/

namespace Sys2Proof.Machine

/-! #### OUTCOME -/

/-- An event that presents a request is one on the ports or a request row. -/
theorem presents_cases {e : Event} (h : e.presents = true) : (∃ r n, e = .req r n) ∨ (∃ i n, e = .row i n ∧ i.isRequest = true) := by
  cases e
  case req r n => exact .inl ⟨r, n, rfl⟩
  case row i n => exact .inr ⟨i, n, rfl, h⟩
  all_goals cases h

/-- The causes of a change of OUTCOME, by the event and the state before it, with the value each gives (R29). -/
def OutcomeCause (s : State) (e : Event) (o : Option ExchangeOutcome) : Prop :=
  (((∃ r n, e = .req r n) ∨ (∃ i n, e = .row i n ∧ i.isRequest = true)) ∧ s.phase = .idle ∧ s.isOpen = true ∧
    ∃ v, v ≠ 0 ∧ o = some (.validationError v)) ∨
  (∃ w, e = .wdone w ∧ s.phase = .writing ∧ (o = some (.writeFailure w) ∨ o = some (.ok none))) ∨
  (∃ bytes, e = .rdone bytes ∧ s.phase = .reading ∧ (o = some (.readShortfall bytes.length) ∨ ∃ res, o = some (.ok (some res)))) ∨
  (e = .closeTransport ∧ s.phase ≠ .idle ∧ o = none) ∨
  (e = .powerOn ∧ o = none)

variable {s t : State} {e : Event}

/-- Every transition keeps OUTCOME, or writes it by one of its causes and is then in IDLE. -/
theorem outcome_of_transition (h : Transition s e t) : t.outcome = s.outcome ∨ (t.phase = .idle ∧ OutcomeCause s e t.outcome) := by
  cases h with
  | busy | notOpen | issue | reply | writeNoValue | readNoValue | opened | closed | encoder => exact .inl rfl
  | invalid p q n v he hp ho hv => exact .inr ⟨hp, .inl ⟨presents_cases he, hp, ho, v, encodeRequest_error_ne_zero hv, rfl⟩⟩
  | written w l n hp =>
    obtain ⟨-, hx⟩ | ⟨-, hx⟩ | ⟨-, -, hx⟩ | ⟨-, -, hx⟩ := completeWrite_cases s w l n <;> rw [hx]
    · exact .inl rfl
    · exact .inr ⟨rfl, .inr (.inl ⟨w, rfl, hp, .inl rfl⟩)⟩
    · exact .inr ⟨rfl, .inr (.inl ⟨w, rfl, hp, .inr rfl⟩)⟩
    · exact .inl rfl
  | obtained bytes l hp =>
    obtain ⟨-, hx⟩ | ⟨-, hx⟩ | ⟨-, res, -, hx⟩ | ⟨-, f, -, hx⟩ := completeRead_cases s bytes l <;> rw [hx]
    · exact .inl rfl
    · exact .inr ⟨rfl, .inr (.inr (.inl ⟨bytes, rfl, hp, .inl rfl⟩))⟩
    · exact .inr ⟨rfl, .inr (.inr (.inl ⟨bytes, rfl, hp, .inr ⟨res, rfl⟩⟩))⟩
    · exact .inl rfl
  | abandoned hp => exact .inr ⟨rfl, .inr (.inr (.inr (.inl ⟨rfl, hp, rfl⟩)))⟩
  | decoder d => exact .inl (SameExchange.of_evalDecoder d s).outcome.symm
  | read p => exact .inl (SameExchange.of_readPort p s).outcome.symm
  | reset => exact .inr ⟨rfl, .inr (.inr (.inr (.inr ⟨rfl, rfl⟩)))⟩

/-- Settles O38: a step makes one transition, and `outcome_of_transition` says what each does to OUTCOME. -/
theorem outcomeChangesOnlyByItsCauses : Obligations.OutcomeChangesOnlyByItsCauses := by
  intro s t e rest hi hstep
  obtain hkept | ⟨hidle, hcause⟩ := outcome_of_transition (step_transition hi hstep)
  · exact ⟨fun _ => hkept, fun hchanged => absurd hkept hchanged⟩
  · exact ⟨fun hbusy => absurd hidle hbusy, fun _ => hcause⟩

/-! #### The frame of an instruction -/

/-- Settles O42: a request row is one of `request_cases`' four updates, a reply row one decoder evaluation. -/
theorem instructionsChangeOnlyTheirOwnFields : Obligations.InstructionsChangeOnlyTheirOwnFields := by
  intro i s t h
  constructor
  · intro hi
    rw [exec_request s i hi] at h
    obtain ⟨-, hx⟩ | ⟨-, -, hx⟩ | ⟨-, -, v, -, hx⟩ | ⟨-, -, frame, -, hx⟩ := request_cases s (rowRequest i s.encIn) <;>
      obtain rfl := Host.Outcome.next.inj (hx.symm.trans h) <;> rfl
  · intro hi
    obtain ⟨d, res, -, hx⟩ := exec_reply_next s i hi
    obtain rfl := Host.Outcome.next.inj (hx.symm.trans h)
    rfl

/-! #### FAULT -/

/-- Every transition but a power-on reset keeps the names in FAULT (R32). -/
theorem fault_subset_of_transition (h : Transition s e t) (he : e ≠ .powerOn) : s.fault.subset t.fault := by
  have hrefl := s.fault.subset_refl
  cases h with
  | busy | notOpen | writeNoValue | readNoValue => exact s.fault.subset_insert _
  | invalid | issue | reply | opened | closed | abandoned | encoder => exact hrefl
  | written w l n =>
    obtain ⟨-, hx⟩ | ⟨-, hx⟩ | ⟨-, -, hx⟩ | ⟨-, -, hx⟩ := completeWrite_cases s w l n <;> rw [hx]
    · exact s.fault.subset_insert .transportContract
    all_goals exact hrefl
  | obtained bytes l =>
    obtain ⟨-, hx⟩ | ⟨-, hx⟩ | ⟨-, res, -, hx⟩ | ⟨-, f, -, hx⟩ := completeRead_cases s bytes l <;> rw [hx]
    · exact s.fault.subset_insert .transportContract
    · exact hrefl
    · exact hrefl
    · exact s.fault.subset_insert f
  | decoder d =>
    obtain ⟨res, -, hx⟩ | ⟨f, -, -, hx⟩ := evalDecoder_cases d s <;> rw [hx]
    · exact hrefl
    · exact s.fault.subset_insert f
  | read p =>
    obtain ⟨v, -, hx⟩ | ⟨-, hx⟩ := readPort_cases s p <;> rw [hx]
    · exact hrefl
    · exact s.fault.subset_insert .noValue
  | reset => exact absurd rfl he

/-- Settles O47: the step's event is not a power-on reset, so `fault_subset_of_transition` applies. -/
theorem faultNamesAreSticky : Obligations.FaultNamesAreSticky := by
  intro s t hstep hno
  obtain ⟨e, rest, hi, ht⟩ := step_cases hstep
  have hkept := fault_subset_of_transition ht fun he => hno rest (he ▸ hi)
  exact hkept

/-! #### STREAM_SUSPECT -/

/-- The causes that set STREAM_SUSPECT: an exchange abandoned by a close, or a read with fewer bytes than the reply (R31). -/
def SuspectCause (s : State) (e : Event) : Prop :=
  (e = .closeTransport ∧ s.phase ≠ .idle) ∨
  (∃ bs l, e = .rdone bs ∧ s.phase = .reading ∧ s.cur = some l ∧ bs.length < l.rlen)

/-- Every transition keeps STREAM_SUSPECT, sets it by one of its causes, or is the power-on reset that clears it. -/
theorem suspect_of_transition (h : Transition s e t) :
    t.suspect = s.suspect ∨ (t.suspect = true ∧ SuspectCause s e) ∨ (t.suspect = false ∧ e = .powerOn) := by
  cases h with
  | busy | notOpen | invalid | issue | reply | writeNoValue | readNoValue | opened | closed | encoder => exact .inl rfl
  | written w l n =>
    obtain ⟨-, hx⟩ | ⟨-, hx⟩ | ⟨-, -, hx⟩ | ⟨-, -, hx⟩ := completeWrite_cases s w l n <;> rw [hx] <;> exact .inl rfl
  | obtained bytes l hp _ hl =>
    obtain ⟨-, hx⟩ | ⟨hc, hx⟩ | ⟨-, res, -, hx⟩ | ⟨-, f, -, hx⟩ := completeRead_cases s bytes l <;> rw [hx]
    · exact .inl rfl
    · exact .inr (.inl ⟨rfl, .inr ⟨bytes, l, rfl, hp, hl, hc⟩⟩)
    · exact .inl rfl
    · exact .inl rfl
  | abandoned hp => exact .inr (.inl ⟨rfl, .inl ⟨rfl, hp⟩⟩)
  | decoder d => obtain ⟨res, -, hx⟩ | ⟨f, -, -, hx⟩ := evalDecoder_cases d s <;> rw [hx] <;> exact .inl rfl
  | read p => obtain ⟨v, -, hx⟩ | ⟨-, hx⟩ := readPort_cases s p <;> rw [hx] <;> exact .inl rfl
  | reset => exact .inr (.inr ⟨rfl, rfl⟩)

/-- Settles O49: a step makes one transition, and `suspect_of_transition` says what each does to STREAM_SUSPECT. -/
theorem streamSuspectIsSetOnlyByItsCausesAndKept : Obligations.StreamSuspectIsSetOnlyByItsCausesAndKept := by
  intro s t e rest hi hstep
  obtain hkept | ⟨hset, hcause⟩ | ⟨hclear, he⟩ := suspect_of_transition (step_transition hi hstep)
  · exact ⟨fun hs _ => hkept.trans hs, fun hs ht => absurd (hs.symm.trans (hkept.symm.trans ht)) Bool.false_ne_true⟩
  · exact ⟨fun _ _ => hset, fun _ _ => hcause⟩
  · exact ⟨fun _ hne => absurd he hne, fun _ ht => absurd (hclear.symm.trans ht) Bool.false_ne_true⟩

/-! #### Which port holds which value -/

/-- Before any encoder evaluation the encoder's ports hold no value (R22). -/
theorem portValue_of_enc_none (h : s.enc = none) (i : Nat) :
    portValue (.frame i) s = none ∧ portValue .flen s = none ∧ portValue .rleno s = none ∧ portValue .verr s = none := by
  simp [portValue, h]

/-- After an encoder evaluation FRAME holds the frame's bytes below its length and no value from there on (R22). -/
theorem portValue_frame {o : EncOut} (h : s.enc = some o) :
    (∀ i b, o.frame[i]? = some b → portValue (.frame i) s = some (.bits b.toNat)) ∧
    (∀ i, o.frame.length ≤ i → portValue (.frame i) s = none) :=
  ⟨fun i b hb => by simp [portValue, h, hb], fun i hi => by simp [portValue, h, List.getElem?_eq_none hi]⟩

/-- After an encoder evaluation FLEN, RLENO and VERR hold its values (R22). -/
theorem portValue_of_enc_some {o : EncOut} (h : s.enc = some o) :
    portValue .flen s = some (.bits o.flen.toNat) ∧ portValue .rleno s = some (.bits o.rleno.toNat) ∧
    portValue .verr s = some (.bits o.verr.toNat) := by
  simp [portValue, h]

theorem portValue_outcome (s : State) : portValue .outcome s = s.outcome.map .outcome := rfl

/-- The decoder's ports hold no value when no decode path's outputs stand (R26). -/
theorem portValue_of_decOutputs_none (h : decOutputs s = none) :
    portValue .lstat s = none ∧ portValue .vraw s = none ∧ portValue .fwPid s = none ∧ portValue .fwMinor s = none ∧
    portValue .fwMajor s = none := by
  simp [portValue, h]

/-- After a SetLimit decode only LSTAT holds a value (R26). -/
theorem portValue_of_limitStatus {l : BitVec 2} (h : decOutputs s = some (.limitStatus l)) :
    portValue .lstat s = some (.bits l.toNat) ∧ portValue .vraw s = none ∧ portValue .fwPid s = none ∧ portValue .fwMinor s = none ∧
    portValue .fwMajor s = none := by
  simp [portValue, h]

/-- After a GetVariable decode only VRAW holds a value (R26). -/
theorem portValue_of_raw16 {v : Half} (h : decOutputs s = some (.raw16 v)) :
    portValue .lstat s = none ∧ portValue .vraw s = some (.bits v.toNat) ∧ portValue .fwPid s = none ∧ portValue .fwMinor s = none ∧
    portValue .fwMajor s = none := by
  simp [portValue, h]

/-- After a GetFirmware decode only FW_PID, FW_MINOR and FW_MAJOR hold a value (R26). -/
theorem portValue_of_firmware {pid : Half} {minor major : Byte} (h : decOutputs s = some (.firmware pid minor major)) :
    portValue .lstat s = none ∧ portValue .vraw s = none ∧ portValue .fwPid s = some (.bits pid.toNat) ∧
    portValue .fwMinor s = some (.bits minor.toNat) ∧ portValue .fwMajor s = some (.bits major.toNat) := by
  simp [portValue, h]

/-! #### The end of a run -/

/-- The events that are not the caller's are the transport's completions (R13). -/
theorem isCallers_eq_false_iff (e : Event) : e.isCallers = false ↔ (∃ w, e = .wdone w) ∨ ∃ bytes, e = .rdone bytes := by
  cases e <;> simp [Event.isCallers]

/-- In IDLE a completion has no step (R205). -/
theorem runEvent_completion_of_idle (hp : s.phase = .idle) (he : e.isCallers = false) : runEvent e s = .fault .completionHasNoStep := by
  obtain ⟨w, rfl⟩ | ⟨bytes, rfl⟩ := (isCallers_eq_false_iff e).mp he
  · simp [runEvent, writeDone, hp]
  · simp [runEvent, readDone, hp]

/-- After the run a step is stuck: nothing is presented, or a late completion (R264). -/
theorem step_of_runOver (h : s.runOver) : ∃ f, step s = .fault f := by
  obtain ⟨hp, -, hlate⟩ := h
  cases hi : s.inputs with
  | nil => exact ⟨.noEvent, step_nil s hi⟩
  | cons e rest =>
    refine ⟨.completionHasNoStep, ?_⟩
    rw [step_cons s hi]
    exact runEvent_completion_of_idle hp (hlate e (by simp [hi]))

/-- FAULT is empty exactly when it holds no name (R32). -/
theorem FaultSet.eq_empty_iff (f : FaultSet) : f = .empty ↔ ∀ n, f.mem n = false := by
  constructor
  · rintro rfl n
    exact mem_empty n
  · intro h
    obtain ⟨busy, notOpen, transportContract, noDecodePath, shortInput, noValue⟩ := f
    obtain rfl : busy = false := h .busy
    obtain rfl : notOpen = false := h .notOpen
    obtain rfl : transportContract = false := h .transportContract
    obtain rfl : noDecodePath = false := h .noDecodePath
    obtain rfl : shortInput = false := h .shortInput
    obtain rfl : noValue = false := h .noValue
    rfl

/-- Settles O57: `decOutputs_of_runOver` empties the decoder's ports, and `step_of_runOver` leaves no step. -/
theorem afterTheRunTheDecoderOutputsHoldNoValue : Obligations.AfterTheRunTheDecoderOutputsHoldNoValue := by
  constructor
  · intro s
    simp only [State.runOver, isCallers_eq_false_iff]
  · intro s hinv hover
    obtain ⟨hlstat, hvraw, hpid, hminor, hmajor⟩ := portValue_of_decOutputs_none (decOutputs_of_runOver s hover)
    have hgood : s.goodEnd ↔ ∀ n, s.fault.mem n = false := (and_iff_right hover).trans s.fault.eq_empty_iff
    exact ⟨hinv.cur_of_idle hover.1, hlstat, hvraw, hpid, hminor, hmajor, step_of_runOver hover, hgood⟩

/-! #### Reading a port -/

/-- A read is answered from the state in which it is presented (R33): its value, or F_NO_VALUE (R232). -/
theorem step_read {p : Port} {rest : List Event} (hi : s.inputs = .read p :: rest) :
    (portValue p s = none → step s = .next (raise .noValue { s with inputs := rest })) ∧
    (∀ v, portValue p s = some v → step s = .next { s with inputs := rest, readBack := some v }) := by
  have hpresented : { s with inputs := .read p :: rest } = s := by rw [← hi]
  have hstep : step s = .next (readPort p { s with inputs := rest }) := step_cons s hi
  obtain ⟨v, hv, hx⟩ | ⟨hnone, hx⟩ := readPort_cases { s with inputs := rest } p
  · have hv : portValue p s = some v := hpresented ▸ hv
    simp [hstep, hx, hv]
  · have hnone : portValue p s = none := hpresented ▸ hnone
    simp [hstep, hx, hnone]

/-- Settles O54: `step_read` answers the read; a pending read keeps the run from being over, so the decoder's ports hold the last evaluation's outputs. -/
theorem readingNoValueIsAFault : Obligations.ReadingNoValueIsAFault := by
  intro s p rest hi
  obtain ⟨hnone, hvalue⟩ := step_read hi
  have hdec : decOutputs s = s.dec := decOutputs_of_caller s hi rfl
  refine ⟨hnone, hvalue, portValue_of_enc_none, ?encoded, ?noOutcome, ?outcome, ?notDecoded, ?limitStatus, ?raw16, ?firmware⟩
  case encoded =>
    intro o ho
    obtain ⟨hbyte, hend⟩ := portValue_frame ho
    exact ⟨hbyte, hend, portValue_of_enc_some ho⟩
  case noOutcome => intro ho; simp [portValue_outcome, ho]
  case outcome => intro o ho; simp [portValue_outcome, ho]
  case notDecoded => exact fun h => portValue_of_decOutputs_none (hdec.trans h)
  case limitStatus => exact fun l h => portValue_of_limitStatus (hdec.trans h)
  case raw16 => exact fun v h => portValue_of_raw16 (hdec.trans h)
  case firmware => exact fun pid minor major h => portValue_of_firmware (hdec.trans h)

/-! #### Power-on reset -/

/-- Settles O55: the step takes the event and is then `powerOn`. -/
theorem powerOnResetSetsEveryField : Obligations.PowerOnResetSetsEveryField := fun s _ hi => step_cons s hi

/-- Settles O56: each field of State.reset, and no name in the empty FAULT. -/
theorem stateAfterReset : Obligations.StateAfterReset := ⟨rfl, rfl, rfl, rfl, rfl, FaultSet.mem_empty, rfl, rfl, rfl⟩

end Sys2Proof.Machine

/-! ### Memory (spec/20_memory.md): the bytes handed to the transport -/

namespace Sys2Proof.Machine

/-! #### A write completion, by its count (R194-R197) -/

section WriteCompletion

variable (s : State) {w : Nat} {l : Latch} (t : Nat)

theorem completeWrite_of_flen_lt (hw : l.flen < w) : completeWrite w l t s = raise .transportContract s := if_pos hw

theorem completeWrite_of_lt_flen (hw : w < l.flen) :
    completeWrite w l t s = finish (.writeFailure w) (handOver l.frame w s) := by
  rw [completeWrite, if_neg (Nat.lt_asymm hw), if_pos hw]

theorem completeWrite_flen_of_noReply (hr : l.rlen = 0) :
    completeWrite l.flen l t s = finish (.ok none) (handOver l.frame l.flen s) := by
  simp [completeWrite, hr]

theorem completeWrite_flen_of_reply (hr : 0 < l.rlen) :
    completeWrite l.flen l t s = issueRead l.rlen t (handOver l.frame l.flen s) := by
  simp [completeWrite, Nat.ne_of_gt hr]

end WriteCompletion

variable {s t : State} {e : Event}

/-- In WRITING with OPEN = 1 and CUR latched, the step by `wdone` completes the write in flight (R194). -/
theorem step_wdone {w n : Nat} {l : Latch} {rest : List Event} (hi : s.inputs = .wdone w :: rest) (hp : s.phase = .writing)
    (ho : s.isOpen = true) (hl : s.cur = some l) (hn : s.curTimeout = some n) :
    step s = .next (completeWrite w l n { s with inputs := rest }) := by
  rw [step_cons s hi]
  simp [runEvent, writeDone, hp, ho, hl, hn]

/-- Settles O32: the step completes the write (`step_wdone`), by the count against FLEN and the reply expected. -/
theorem writeCompletionFollowsTheTable : Obligations.WriteCompletionFollowsTheTable := by
  intro s w n l rest hi hp ho hl hn
  rw [step_wdone hi hp ho hl hn]
  refine ⟨fun hlong => ?long, fun hshort => ?short, fun hwhole hr => ?noReply, fun hwhole hr => ?reply⟩
  case long => rw [completeWrite_of_flen_lt _ _ hlong]; rfl
  case short => rw [completeWrite_of_lt_flen _ _ hshort]; rfl
  case noReply => subst hwhole; rw [completeWrite_flen_of_noReply _ _ hr]; rfl
  case reply => subst hwhole; rw [completeWrite_flen_of_reply _ _ hr]; rfl

/-! #### What is handed over (R59, R60) -/

/-- A write completion hands over nothing when its count is above the frame's; otherwise exactly that many bytes of the frame, and
the write is then over. -/
theorem completeWrite_wire (s : State) (w : Nat) (l : Latch) (n : Nat) :
    (completeWrite w l n s).wire = s.wire ∨
    (w ≤ l.flen ∧ (completeWrite w l n s).wire = s.wire ++ l.frame.take w ∧ (completeWrite w l n s).phase ≠ .writing) := by
  obtain ⟨-, hx⟩ | ⟨hw, hx⟩ | ⟨hw, -, hx⟩ | ⟨hw, -, hx⟩ := completeWrite_cases s w l n <;> rw [hx]
  · exact .inl rfl
  · exact .inr ⟨Nat.le_of_lt hw, rfl, by simp⟩
  · exact .inr ⟨Nat.le_of_eq hw, rfl, by simp⟩
  · exact .inr ⟨Nat.le_of_eq hw, rfl, by simp⟩

/-- A read completion hands nothing over. -/
theorem completeRead_wire (s : State) (bytes : List Byte) (l : Latch) : (completeRead bytes l s).wire = s.wire := by
  obtain ⟨-, hx⟩ | ⟨-, hx⟩ | ⟨-, res, -, hx⟩ | ⟨-, f, -, hx⟩ := completeRead_cases s bytes l <;> rw [hx] <;> rfl

/-- Every transition hands nothing over, or is the completion of the write in flight and hands over a leading part of its frame. -/
theorem wire_of_transition (h : Transition s e t) :
    t.wire = s.wire ∨ ∃ w l, e = .wdone w ∧ s.phase = .writing ∧ s.cur = some l ∧ w ≤ l.flen ∧
      t.wire = s.wire ++ l.frame.take w ∧ t.phase ≠ .writing := by
  cases h with
  | busy | notOpen | invalid | issue | reply | writeNoValue | readNoValue | opened | closed | abandoned | encoder | reset => exact .inl rfl
  | written w l n hp _ hl =>
    obtain hkept | ⟨hw, hwire, hphase⟩ := completeWrite_wire s w l n
    · exact .inl hkept
    · exact .inr ⟨w, l, rfl, hp, hl, hw, hwire, hphase⟩
  | obtained bytes l => exact .inl (completeRead_wire s bytes l)
  | decoder d => exact .inl (SameExchange.of_evalDecoder d s).wire.symm
  | read p => exact .inl (SameExchange.of_readPort p s).wire.symm

/-- Settles O52: a step makes one transition, and `wire_of_transition` says what each hands over. -/
theorem wireGrowsOnlyByTheFrameInFlight : Obligations.WireGrowsOnlyByTheFrameInFlight := by
  intro s t e rest hi hstep
  have hwire := wire_of_transition (step_transition hi hstep)
  exact hwire

end Sys2Proof.Machine

/-! ### Encoding (spec/30_encoding.md): what is read back, and what is read at all -/

namespace Sys2Proof.Machine

variable {cfg : Config}

/-! #### Each payload format, read after it is written (R84) -/

theorem accept_of_wellFormed {i : Instr} (h : i.wellFormed cfg = true) (rest : List Byte) : accept cfg i rest = .ok (i, rest) := if_pos h

theorem readPW13Payload_encode (mk : Half → Instr) {pwm : Half} (h : pwm.toNat ≤ 3200) (rest : List Byte) :
    readPW13Payload cfg mk (encodePW13 pwm ++ rest) = accept cfg (mk pwm) rest := by
  simp only [encodePW13, List.cons_append, List.nil_append, readPW13Payload, pw13_low_reserved, isDataByte_append, readPW13_encode pwm h,
    and_self, if_true]

theorem readPW7Payload_encode (mk : Half → Instr) {pwm : Half} (h : pwm.toNat ≤ 127) (rest : List Byte) :
    readPW7Payload cfg mk (encodePW7 pwm ++ rest) = accept cfg (mk pwm) rest := by
  simp only [encodePW7, List.cons_append, List.nil_append, readPW7Payload, isDataByte_append, readByte_encodePW7 pwm h, if_true]

theorem readPDPayload_encode (mk : Half → Instr) {duty : Half} (h : duty.toNat ≤ 32) (rest : List Byte) :
    readPDPayload cfg mk (encodePD duty ++ rest) = accept cfg (mk duty) rest := by
  simp only [encodePD, List.cons_append, List.nil_append, readPDPayload, pd_reserved, readByte_encodePD duty h, if_true]

theorem readPLPayload_encode (mk : Byte → Half → Instr) {id : Byte} {value : Half} (hid : id.toNat ≤ 127) (hv : value.toNat ≤ 16383)
    (rest : List Byte) : readPLPayload cfg mk (encodePL id value ++ rest) = accept cfg (mk id value) rest := by
  simp only [encodePL, List.cons_append, List.nil_append, readPLPayload, isDataByte_append, dataByte_eq id hid, readPL_encode value hv,
    (isDataByte_iff id).mpr hid, and_self, if_true]

theorem readPVPayload_encode (mk : Byte → Instr) {id : Byte} (h : id.toNat ≤ 127) (rest : List Byte) :
    readPVPayload cfg mk (encodePV id ++ rest) = accept cfg (mk id) rest := by
  simp only [encodePV, List.cons_append, List.nil_append, readPVPayload, dataByte_eq id h, (isDataByte_iff id).mpr h, if_true]

/-! #### Each frame format, read after it is written (R81, R82) -/

/-- After HEADER, a device id and an opcode of OPC_A the listener reads that command's payload (R97). -/
theorem decodeFrame_encodeAddressed (hinj : cfg.OpcodesInjective) (c : Command) {dev : Byte} (hdev : deviceInRange dev = true)
    (payload rest : List Byte) :
    decodeFrame cfg (encodeAddressed cfg c dev payload ++ rest) = readAddressedPayload cfg dev c (payload ++ rest) := by
  have hle := (deviceInRange_iff dev).mp hdev
  simp [encodeAddressed, decodeFrame, readAddressed, dataByte_eq dev hle, (isDataByte_iff dev).mpr hle,
    cfg.opcA.find_get hinj.injectiveA c]

/-- After an opcode of OPC_B, which is not HEADER, the listener reads that command's payload (R97). -/
theorem decodeFrame_encodeBroadcast (hadm : cfg.Admitted) (hinj : cfg.OpcodesInjective) (c : Command) (payload rest : List Byte) :
    decodeFrame cfg (encodeBroadcast cfg c payload ++ rest) = readBroadcastPayload cfg c (payload ++ rest) := by
  simp [encodeBroadcast, decodeFrame, hadm.headerNotInB c, cfg.opcB.find_get hinj.injectiveB c]

/-- Settles O2: the frame's format leads to the reader of its row's payload, which reads back what a well-formed row wrote. -/
theorem frameDecodesToTheEncodedRow : Obligations.FrameDecodesToTheEncodedRow := by
  intro cfg i rest hadm hinj hreq hwf
  rw [← accept_of_wellFormed hwf rest]
  cases i with
  | exitSafeStartA dev | stopA dev | getFirmwareA dev => exact decodeFrame_encodeAddressed hinj _ hwf _ _
  | exitSafeStartB | stopB => exact decodeFrame_encodeBroadcast hadm hinj _ _ _
  | motorForwardA dev pwm | motorReverseA dev pwm =>
    obtain ⟨hdev, hpwm⟩ := Bool.and_eq_true_iff.mp hwf
    exact (decodeFrame_encodeAddressed hinj _ hdev _ _).trans (readPW13Payload_encode _ ((pwm13InRange_iff pwm).mp hpwm) rest)
  | motorForwardB pwm | motorReverseB pwm =>
    exact (decodeFrame_encodeBroadcast hadm hinj _ _ _).trans (readPW13Payload_encode _ ((pwm13InRange_iff pwm).mp hwf) rest)
  | motorForward7BitA dev pwm | motorReverse7BitA dev pwm =>
    obtain ⟨hdev, hpwm⟩ := Bool.and_eq_true_iff.mp hwf
    exact (decodeFrame_encodeAddressed hinj _ hdev _ _).trans (readPW7Payload_encode _ ((pwm7InRange_iff pwm).mp hpwm) rest)
  | motorForward7BitB pwm | motorReverse7BitB pwm =>
    exact (decodeFrame_encodeBroadcast hadm hinj _ _ _).trans (readPW7Payload_encode _ ((pwm7InRange_iff pwm).mp hwf) rest)
  | brakeA dev duty =>
    obtain ⟨hdev, hduty⟩ := Bool.and_eq_true_iff.mp hwf
    exact (decodeFrame_encodeAddressed hinj _ hdev _ _).trans (readPDPayload_encode _ ((dutyInRange_iff duty).mp hduty) rest)
  | brakeB duty =>
    exact (decodeFrame_encodeBroadcast hadm hinj _ _ _).trans (readPDPayload_encode _ ((dutyInRange_iff duty).mp hwf) rest)
  | setLimitA dev id value =>
    obtain ⟨hdevid, hvalue⟩ := Bool.and_eq_true_iff.mp hwf
    obtain ⟨hdev, hid⟩ := Bool.and_eq_true_iff.mp hdevid
    exact (decodeFrame_encodeAddressed hinj _ hdev _ _).trans
      (readPLPayload_encode _ (hadm.limitIdsBounded id hid) ((limitValueInRange_iff value).mp hvalue) rest)
  | getVariableA dev id =>
    obtain ⟨hdev, hid⟩ := Bool.and_eq_true_iff.mp hwf
    exact (decodeFrame_encodeAddressed hinj _ hdev _ _).trans (readPVPayload_encode _ (hadm.varIdsBounded id hid) rest)
  | setLimitB | getVariableB | getFirmwareB => cases hwf
  | setLimitReply | getVariableReply | getFirmwareReply => cases hreq

/-! #### Each payload format, written again after it is read (R84) -/

/-- Two bytes with PW13's reserved bits 0 are the encoding of the pwm they are read as. -/
theorem encodePW13_readPW13 {b0 b1 : Byte} (h0 : b0.extractLsb' 5 3 = 0) (h1 : isDataByte b1 = true) :
    encodePW13 (readPW13 b0 b1) = [b0, b1] := by
  have hlow : b0.toNat / 2 ^ 5 % 2 ^ 3 = 0 := (extractLsb'_toNat_eq b0 5 3).symm.trans (congrArg BitVec.toNat h0)
  have hhigh := (isDataByte_iff b1).mp h1
  have hv := readPW13_toNat b0 b1
  have hb0 := b0.isLt
  simp only [encodePW13, List.cons.injEq, and_true]
  constructor <;> apply BitVec.eq_of_toNat_eq <;> rw [zero_append_toNat, extractLsb'_toNat_eq] <;> omega

theorem encodePW7_readByte {b : Byte} (h : isDataByte b = true) : encodePW7 (readByte b) = [b] := by
  have hle := (isDataByte_iff b).mp h
  have hv := readByte_toNat b
  simp only [encodePW7, List.cons.injEq, and_true]
  apply BitVec.eq_of_toNat_eq
  rw [zero_append_toNat, extractLsb'_toNat_eq]
  omega

theorem encodePD_readByte {b : Byte} (h : b.extractLsb' 6 2 = 0) : encodePD (readByte b) = [b] := by
  have hhigh : b.toNat / 2 ^ 6 % 2 ^ 2 = 0 := (extractLsb'_toNat_eq b 6 2).symm.trans (congrArg BitVec.toNat h)
  have hv := readByte_toNat b
  have hb := b.isLt
  simp only [encodePD, List.cons.injEq, and_true]
  apply BitVec.eq_of_toNat_eq
  rw [zero_append_toNat, extractLsb'_toNat_eq]
  omega

theorem encodePL_readPL {id b1 b2 : Byte} (hid : isDataByte id = true) (h1 : isDataByte b1 = true) (h2 : isDataByte b2 = true) :
    encodePL id (readPL b1 b2) = [id, b1, b2] := by
  have hlow := (isDataByte_iff b1).mp h1
  have hhigh := (isDataByte_iff b2).mp h2
  have hv := readPL_toNat b1 b2
  simp only [encodePL, dataByte_eq id ((isDataByte_iff id).mp hid), List.cons.injEq, true_and, and_true]
  constructor <;> apply BitVec.eq_of_toNat_eq <;> rw [zero_append_toNat, extractLsb'_toNat_eq] <;> omega

theorem encodePV_dataByte {id : Byte} (h : isDataByte id = true) : encodePV id = [id] := by
  rw [encodePV, dataByte_eq id ((isDataByte_iff id).mp h)]

/-! #### What a payload reader accepts -/

section Readers

variable {bytes rest : List Byte} {i : Instr}

/-- A reading behind a check of the reserved bits: the check holds, and the row accepted is the row offered, well formed. -/
theorem guarded_accept_eq_ok {p : Prop} [Decidable p] {offered : Instr} {tail : List Byte} {why : Reject}
    (h : (if p then accept cfg offered tail else .error why) = .ok (i, rest)) :
    p ∧ offered.wellFormed cfg = true ∧ offered = i ∧ tail = rest := by
  split at h
  · exact ⟨‹p›, accept_eq_ok h⟩
  · cases h

theorem readPW13Payload_eq_ok {mk : Half → Instr} (h : readPW13Payload cfg mk bytes = .ok (i, rest)) :
    ∃ pwm, i = mk pwm ∧ i.wellFormed cfg = true ∧ bytes = encodePW13 pwm ++ rest := by
  match bytes, h with
  | b0 :: b1 :: tail, h =>
    obtain ⟨⟨hreserved, hdata⟩, hwf, rfl, rfl⟩ := guarded_accept_eq_ok h
    exact ⟨_, rfl, hwf, by rw [encodePW13_readPW13 hreserved hdata]; rfl⟩
  | [], h => cases h
  | [_], h => cases h

theorem readPW7Payload_eq_ok {mk : Half → Instr} (h : readPW7Payload cfg mk bytes = .ok (i, rest)) :
    ∃ pwm, i = mk pwm ∧ i.wellFormed cfg = true ∧ bytes = encodePW7 pwm ++ rest := by
  match bytes, h with
  | b :: tail, h =>
    obtain ⟨hdata, hwf, rfl, rfl⟩ := guarded_accept_eq_ok h
    exact ⟨_, rfl, hwf, by rw [encodePW7_readByte hdata]; rfl⟩
  | [], h => cases h

theorem readPDPayload_eq_ok {mk : Half → Instr} (h : readPDPayload cfg mk bytes = .ok (i, rest)) :
    ∃ duty, i = mk duty ∧ i.wellFormed cfg = true ∧ bytes = encodePD duty ++ rest := by
  match bytes, h with
  | b :: tail, h =>
    obtain ⟨hreserved, hwf, rfl, rfl⟩ := guarded_accept_eq_ok h
    exact ⟨_, rfl, hwf, by rw [encodePD_readByte hreserved]; rfl⟩
  | [], h => cases h

theorem readPLPayload_eq_ok {mk : Byte → Half → Instr} (h : readPLPayload cfg mk bytes = .ok (i, rest)) :
    ∃ id value, i = mk id value ∧ i.wellFormed cfg = true ∧ bytes = encodePL id value ++ rest := by
  match bytes, h with
  | id :: b1 :: b2 :: tail, h =>
    obtain ⟨⟨hid, hlow, hhigh⟩, hwf, rfl, rfl⟩ := guarded_accept_eq_ok h
    exact ⟨_, _, rfl, hwf, by rw [encodePL_readPL hid hlow hhigh]; rfl⟩
  | [], h => cases h
  | [_], h => cases h
  | [_, _], h => cases h

theorem readPVPayload_eq_ok {mk : Byte → Instr} (h : readPVPayload cfg mk bytes = .ok (i, rest)) :
    ∃ id, i = mk id ∧ i.wellFormed cfg = true ∧ bytes = encodePV id ++ rest := by
  match bytes, h with
  | id :: tail, h =>
    obtain ⟨hid, hwf, rfl, rfl⟩ := guarded_accept_eq_ok h
    exact ⟨_, rfl, hwf, by rw [encodePV_dataByte hid]; rfl⟩
  | [], h => cases h

/-! #### What a frame reader accepts -/

/-- An accepted Addressed payload makes, with its device id and opcode, the frame of a well-formed request. -/
theorem readAddressedPayload_eq_ok {dev : Byte} {c : Command} (h : readAddressedPayload cfg dev c bytes = .ok (i, rest)) :
    i.isRequest = true ∧ i.wellFormed cfg = true ∧ encodeAddressed cfg c dev bytes = encode cfg i ++ rest := by
  cases c with
  | exitSafeStart | stop | getFirmware =>
    obtain ⟨hwf, rfl, rfl⟩ := accept_eq_ok h
    exact ⟨rfl, hwf, rfl⟩
  | motorForward | motorReverse =>
    obtain ⟨pwm, rfl, hwf, rfl⟩ := readPW13Payload_eq_ok h
    exact ⟨rfl, hwf, rfl⟩
  | motorForward7Bit | motorReverse7Bit =>
    obtain ⟨pwm, rfl, hwf, rfl⟩ := readPW7Payload_eq_ok h
    exact ⟨rfl, hwf, rfl⟩
  | brake =>
    obtain ⟨duty, rfl, hwf, rfl⟩ := readPDPayload_eq_ok h
    exact ⟨rfl, hwf, rfl⟩
  | setLimit =>
    obtain ⟨id, value, rfl, hwf, rfl⟩ := readPLPayload_eq_ok h
    exact ⟨rfl, hwf, rfl⟩
  | getVariable =>
    obtain ⟨id, rfl, hwf, rfl⟩ := readPVPayload_eq_ok h
    exact ⟨rfl, hwf, rfl⟩

/-- An accepted Broadcast payload makes, with its opcode, the frame of a well-formed request. -/
theorem readBroadcastPayload_eq_ok {c : Command} (h : readBroadcastPayload cfg c bytes = .ok (i, rest)) :
    i.isRequest = true ∧ i.wellFormed cfg = true ∧ encodeBroadcast cfg c bytes = encode cfg i ++ rest := by
  cases c with
  | exitSafeStart | stop =>
    obtain ⟨hwf, rfl, rfl⟩ := accept_eq_ok h
    exact ⟨rfl, hwf, rfl⟩
  | motorForward | motorReverse =>
    obtain ⟨pwm, rfl, hwf, rfl⟩ := readPW13Payload_eq_ok h
    exact ⟨rfl, hwf, rfl⟩
  | motorForward7Bit | motorReverse7Bit =>
    obtain ⟨pwm, rfl, hwf, rfl⟩ := readPW7Payload_eq_ok h
    exact ⟨rfl, hwf, rfl⟩
  | brake =>
    obtain ⟨duty, rfl, hwf, rfl⟩ := readPDPayload_eq_ok h
    exact ⟨rfl, hwf, rfl⟩
  | setLimit | getVariable | getFirmware => cases h

/-- What is read after HEADER is, with HEADER before it, the encoding of the request it is read as. -/
theorem readAddressed_eq_ok (h : readAddressed cfg bytes = .ok (i, rest)) :
    i.isRequest = true ∧ i.wellFormed cfg = true ∧ header :: bytes = encode cfg i ++ rest := by
  unfold readAddressed at h
  split at h
  · next dev op payload =>
    split at h
    · next hdev =>
      split at h
      · next c hfind =>
        obtain ⟨hreq, hwf, hbytes⟩ := readAddressedPayload_eq_ok h
        rw [encodeAddressed, dataByte_eq dev ((isDataByte_iff dev).mp hdev), cfg.opcA.get_of_find hfind] at hbytes
        exact ⟨hreq, hwf, hbytes⟩
      · cases h
    · cases h
  · cases h

end Readers

/-- Settles O3: HEADER leads to an Addressed frame, an opcode of OPC_B to a Broadcast one, and each reader accepts only what the encoder writes. -/
theorem onlyEncodedFramesDecode : Obligations.OnlyEncodedFramesDecode := by
  intro cfg bytes rest i h
  unfold decodeFrame at h
  split at h
  · cases h
  · next b payload =>
    split at h
    · next hb =>
      subst hb
      exact readAddressed_eq_ok h
    · split at h
      · next c hfind =>
        rw [← cfg.opcB.get_of_find hfind]
        exact readBroadcastPayload_eq_ok h
      · cases h

/-! #### A request's row, by its command -/

/-- The row of a command in a mode, with the operands of the ports it uses. -/
def commandRow (c : Command) (mode : Mode) (dev : Byte) (pval : Half) (pid : Byte) : Instr :=
  match mode, c with
  | .addressed, .exitSafeStart => .exitSafeStartA dev
  | .addressed, .motorForward => .motorForwardA dev pval
  | .addressed, .motorReverse => .motorReverseA dev pval
  | .addressed, .motorForward7Bit => .motorForward7BitA dev pval
  | .addressed, .motorReverse7Bit => .motorReverse7BitA dev pval
  | .addressed, .brake => .brakeA dev pval
  | .addressed, .stop => .stopA dev
  | .addressed, .setLimit => .setLimitA dev pid pval
  | .addressed, .getVariable => .getVariableA dev pid
  | .addressed, .getFirmware => .getFirmwareA dev
  | .broadcast, .exitSafeStart => .exitSafeStartB
  | .broadcast, .motorForward => .motorForwardB pval
  | .broadcast, .motorReverse => .motorReverseB pval
  | .broadcast, .motorForward7Bit => .motorForward7BitB pval
  | .broadcast, .motorReverse7Bit => .motorReverse7BitB pval
  | .broadcast, .brake => .brakeB pval
  | .broadcast, .stop => .stopB
  | .broadcast, .setLimit => .setLimitB pid pval
  | .broadcast, .getVariable => .getVariableB pid
  | .broadcast, .getFirmware => .getFirmwareB

/-- A request that names a row has a defined code, and the row is its command's (R127). -/
theorem ofReq_eq_some {r : Req} {i : Instr} (h : Instr.ofReq r = some i) :
    ∃ c : Command, r.cmd = c.code ∧ i = commandRow c r.mode r.dev r.pval r.pid := by
  cases hc : Command.ofCode r.cmd with
  | none => simp [Instr.ofReq, hc] at h
  | some c =>
    refine ⟨c, (Command.ofCode_eq_some_iff _ _).mp hc, ?_⟩
    cases hm : r.mode <;> cases c <;> simp [Instr.ofReq, hc, hm] at h <;> exact h.symm

/-- The check of a command's own operands (R93). -/
def operandsInRange (cfg : Config) (pval : Half) (pid : Byte) : Command → Bool
  | .exitSafeStart => true
  | .motorForward => pwm13InRange pval
  | .motorReverse => pwm13InRange pval
  | .motorForward7Bit => pwm7InRange pval
  | .motorReverse7Bit => pwm7InRange pval
  | .brake => dutyInRange pval
  | .stop => true
  | .setLimit => cfg.limitIdValid pid && limitValueInRange pval
  | .getVariable => cfg.varIdValid pid
  | .getFirmware => true

/-- The checks of a request of a defined command: a device id in range where one is sent, no Broadcast of a response-bearing
command, and the command's own operands in range (R93). -/
def checks (cfg : Config) (c : Command) (mode : Mode) (dev : Byte) (pval : Half) (pid : Byte) : Bool :=
  match mode with
  | .addressed => deviceInRange dev && operandsInRange cfg pval pid c
  | .broadcast => decide (c.rlen = 0) && operandsInRange cfg pval pid c

theorem checks_broadcast_iff (cfg : Config) (c : Command) (dev : Byte) (pval : Half) (pid : Byte) :
    checks cfg c .broadcast dev pval pid = true ↔ c.rlen = 0 ∧ operandsInRange cfg pval pid c = true := by
  simp [checks]

/-- A row is well formed exactly when it passes its command's checks (R93). -/
theorem wellFormed_commandRow (cfg : Config) (c : Command) (mode : Mode) (dev : Byte) (pval : Half) (pid : Byte) :
    (commandRow c mode dev pval pid).wellFormed cfg = checks cfg c mode dev pval pid := by
  cases mode with
  | addressed => cases c <;> simp [commandRow, Instr.wellFormed, checks, operandsInRange, Bool.and_assoc]
  | broadcast => cases c <;> simp [commandRow, Instr.wellFormed, checks, operandsInRange, Command.rlen]

/-- The five VERR bits of a defined command's own operands are 0 exactly when the operands are in range. -/
theorem operand_bits_eq_false_iff (cfg : Config) {r : Req} {c : Command} (hc : r.cmd = c.code) :
    (pwm13Range r = false ∧ pwm7Range r = false ∧ dutyRange r = false ∧ lvalRange r = false ∧ lidInvalid cfg r = false ∧
      vidInvalid cfg r = false) ↔ operandsInRange cfg r.pval r.pid c = true := by
  cases c <;> simp [pwm13Range, pwm7Range, dutyRange, lvalRange, lidInvalid, vidInvalid, operandsInRange, hc, Command.code,
    pwm13InRange, pwm7InRange, dutyInRange, limitValueInRange, and_comm]

/-- VERR of a request of a defined command is 0 exactly when it passes its command's checks (R123). -/
theorem verr_eq_zero_iff_checks (cfg : Config) {r : Req} {c : Command} (hc : r.cmd = c.code) :
    verr cfg r = 0 ↔ checks cfg c r.mode r.dev r.pval r.pid = true := by
  have hdefined : cmdUndef r = false := by rw [cmdUndef, hc]; cases c <;> rfl
  rw [verr_eq_zero_iff]
  cases hm : r.mode <;>
    simp [hdefined, bcastResp, devRange, hm, hc, checks, deviceInRange, operand_bits_eq_false_iff cfg hc]

/-- Settles O6: a row is well formed, and VERR of its request is 0, exactly when the request passes its command's checks. -/
theorem rowIsWellFormedExactlyWhenVerrIsZero : Obligations.RowIsWellFormedExactlyWhenVerrIsZero := by
  intro cfg r i hi
  obtain ⟨c, hc, rfl⟩ := ofReq_eq_some hi
  rw [wellFormed_commandRow, verr_eq_zero_iff_checks cfg hc]

/-! #### The encoder's fields and the bit tables -/

/-- A field zero-extended to a byte is the byte of the bit tables, zeros above the field's bits. -/
theorem field_eq_append {w : Nat} (v : BitVec w) (lo k n : Nat) (h : k + n = 8) : field v lo n = (0#k ++ v.extractLsb' lo n).cast h := by
  apply BitVec.eq_of_toNat_eq
  rw [field_toNat v lo n (by omega), BitVec.toNat_cast, zero_append_toNat, extractLsb'_toNat_eq]

theorem payloadPW13_eq_encode (pval : Half) : payloadPW13 pval = encodePW13 pval := by
  simp [payloadPW13, encodePW13, field_eq_append pval 0 3 5 rfl, field_eq_append pval 5 1 7 rfl]

theorem payloadPW7_eq_encode (pval : Half) : payloadPW7 pval = encodePW7 pval := by
  simp [payloadPW7, encodePW7, field_eq_append pval 0 1 7 rfl]

theorem payloadPD_eq_encode (pval : Half) : payloadPD pval = encodePD pval := by
  simp [payloadPD, encodePD, field_eq_append pval 0 2 6 rfl]

theorem payloadPL_eq_encode (pid : Byte) (pval : Half) : payloadPL pid pval = encodePL pid pval := by
  simp [payloadPL, encodePL, field_eq_append pid 0 1 7 rfl, field_eq_append pval 0 1 7 rfl, field_eq_append pval 7 1 7 rfl]

theorem payloadPV_eq_encode (pid : Byte) : payloadPV pid = encodePV pid := by
  simp [payloadPV, encodePV, field_eq_append pid 0 1 7 rfl]

/-- An Addressed row's encoding is the Addressed format with the multiplexer's payload. -/
theorem encode_commandRow_addressed (cfg : Config) (c : Command) (dev : Byte) (pval : Half) (pid : Byte) :
    encode cfg (commandRow c .addressed dev pval pid) = encodeAddressed cfg c dev (payload c pval pid) := by
  cases c <;> simp [commandRow, encode, payload, payloadP0, payloadPW13_eq_encode, payloadPW7_eq_encode, payloadPD_eq_encode,
    payloadPL_eq_encode, payloadPV_eq_encode]

/-- The Broadcast row of a command without a reply is the Broadcast format with the multiplexer's payload. -/
theorem encode_commandRow_broadcast (cfg : Config) {c : Command} (h : c.rlen = 0) (dev : Byte) (pval : Half) (pid : Byte) :
    encode cfg (commandRow c .broadcast dev pval pid) = encodeBroadcast cfg c (payload c pval pid) := by
  cases c <;> simp [commandRow, encode, payload, payloadP0, payloadPW13_eq_encode, payloadPW7_eq_encode, payloadPD_eq_encode,
    Command.rlen] at h ⊢

/-- The frame the encoder builds for a request that passes its checks is its row's encoding. -/
theorem frame_eq_encode (cfg : Config) {c : Command} {mode : Mode} {dev : Byte} {pval : Half} {pid : Byte}
    (h : checks cfg c mode dev pval pid = true) :
    framePrefix mode dev ++ opcode cfg mode c :: payload c pval pid = encode cfg (commandRow c mode dev pval pid) := by
  cases mode with
  | addressed =>
    rw [encode_commandRow_addressed, encodeAddressed, framePrefix, field_eq_append dev 0 1 7 rfl]
    rfl
  | broadcast =>
    obtain ⟨hnoReply, -⟩ := (checks_broadcast_iff cfg c dev pval pid).mp h
    rw [encode_commandRow_broadcast cfg hnoReply]
    rfl

/-- Settles O5: a well-formed row's request has VERR 0, and the frame then built is the row's encoding (`frame_eq_encode`). -/
theorem encoderOutputsTheRowsEncoding : Obligations.EncoderOutputsTheRowsEncoding := by
  intro cfg r i hi hwf
  obtain ⟨c, hc, rfl⟩ := ofReq_eq_some hi
  have hchecks := (wellFormed_commandRow cfg c r.mode r.dev r.pval r.pid).symm.trans hwf
  rw [encodeRequest_ok cfg r ((verr_eq_zero_iff_checks cfg hc).mpr hchecks) hc, frame_eq_encode cfg hchecks]

/-! #### A frame's length and its data bytes -/

/-- PLEN by the command's code, as R87 tables it. -/
theorem plen_eq_of_code {c : Command} {code : BitVec 4} (hc : code = c.code) :
    c.plen = if code = 0 ∨ code = 6 ∨ code = 9 then 0 else if code = 1 ∨ code = 2 then 2 else if code = 7 then 3 else 1 := by
  subst hc
  cases c <;> rfl

theorem pre_eq (mode : Mode) : mode.pre = if mode = .addressed then 3 else 1 := by cases mode <;> rfl

/-- The commands without a reply have the codes 0 to 6 (R86, R87). -/
theorem code_le_six_of_rlen_eq_zero {c : Command} (h : c.rlen = 0) : c.code.toNat ≤ 6 := by
  revert h
  cases c <;> decide

/-- FLEN is the frame's length (R88). -/
theorem flen_of_encode {r : Req} {frame : List Byte} (h : encodeRequest cfg r = .ok frame) : (encOut cfg r).flen.toNat = frame.length := by
  rw [← (encOut_consistent cfg r).frameLength, encOut_ok cfg r h]

/-- Settles O9: a frame is built from a defined command with VERR 0, so it has the lengths of the static tables and no Broadcast of a reply. -/
theorem frameLengthIsTheStaticLength : Obligations.FrameLengthIsTheStaticLength := by
  intro cfg r frame h
  obtain ⟨hflen, hpos, hmax⟩ := encodeRequest_length h
  obtain ⟨c, hc, hverr, -⟩ | ⟨-, herr⟩ := encodeRequest_cases cfg r
  · refine ⟨?length, hpos, hmax, flen_of_encode h, fun hbroadcast => ?noReply⟩
    case length => rw [← hflen, flenOf_eq r hc, pre_eq, plen_eq_of_code hc]
    case noReply =>
      have hchecks := (verr_eq_zero_iff_checks cfg hc).mp hverr
      rw [hbroadcast, checks_broadcast_iff] at hchecks
      obtain ⟨hnoReply, -⟩ := hchecks
      exact hc ▸ code_le_six_of_rlen_eq_zero hnoReply
  · cases herr.symm.trans h

/-- A field of at most 7 bits is a data byte (R85). -/
theorem field_le_127 {w : Nat} (v : BitVec w) (lo : Nat) {n : Nat} (h : n ≤ 7) : (field v lo n).toNat ≤ 127 := by
  have hlt : v.toNat / 2 ^ lo % 2 ^ n < 2 ^ n := Nat.mod_lt _ (Nat.two_pow_pos n)
  have hpow : 2 ^ n ≤ 2 ^ 7 := Nat.pow_le_pow_right (by decide) h
  rw [field_toNat v lo n (by omega)]
  omega

/-- Every payload byte is a field of at most 7 bits, so a data byte (R85). -/
theorem payload_le_127 (c : Command) (pval : Half) (pid : Byte) : ∀ b ∈ payload c pval pid, b.toNat ≤ 127 := by
  cases c <;> simp [payload, payloadP0, payloadPW13, payloadPW7, payloadPD, payloadPL, payloadPV, field_le_127]

/-- Settles O10: the data bytes are fields of at most 7 bits, HEADER is above 127, and an admitted table's opcodes are not HEADER. -/
theorem frameBytesKeepTheDataByteRule : Obligations.FrameBytesKeepTheDataByteRule := by
  intro cfg r frame hadm h
  obtain ⟨c, hc, -, hok⟩ | ⟨-, herr⟩ := encodeRequest_cases cfg r
  · obtain rfl : _ = frame := Except.ok.inj (hok.symm.trans h)
    have hpayload := payload_le_127 c r.pval r.pid
    constructor
    · intro haddressed
      rw [haddressed]
      exact ⟨_, c, _, rfl, field_le_127 r.dev 0 le_rfl, hpayload⟩
    · intro hbroadcast
      rw [hbroadcast]
      refine ⟨c, _, rfl, hpayload, fun hmem => ?_⟩
      obtain hopcode | hdata := List.mem_cons.mp hmem
      · exact hadm.headerNotInB c hopcode.symm
      · exact absurd (hpayload _ hdata) (by decide)
  · cases herr.symm.trans h

/-! #### A reserved code -/

theorem rlenOfCode_of_reserved {code : BitVec 4} (h : 10 ≤ code.toNat) : rlenOfCode code = 0 := by
  rw [rlenOfCode, (Command.ofCode_eq_none_iff code).mpr h]

/-- VERR of a request with a reserved code: CMD_UNDEF, and DEV_RANGE where it holds (R93, R123). -/
theorem verr_of_reserved (cfg : Config) {r : Req} (h : 10 ≤ r.cmd.toNat) :
    verr cfg r = 0x001 ||| (if r.mode = .addressed ∧ 127 < r.dev.toNat then 0x004 else 0) := by
  have hne (c : Command) : r.cmd ≠ c.code := fun hc => by
    have := (Command.ofCode_eq_none_iff r.cmd).mpr h
    simp [hc] at this
  have hmask : verr cfg r = verrMask true false (devRange r) false false false false false false := by
    simp [verr, cmdUndef, h, bcastResp, rlenOfCode_of_reserved h, pwm13Range, pwm7Range, dutyRange, lvalRange, lidInvalid, vidInvalid, hne]
  rw [hmask, devRange]
  by_cases hdev : r.mode = .addressed ∧ 127 < r.dev.toNat
  · rw [if_pos hdev, decide_eq_true hdev]; rfl
  · rw [if_neg hdev, decide_eq_false hdev]; rfl

/-- An admitted request that the encoder fails leaves the state `State.invalid` names (R192). -/
theorem request_invalid {s : State} {r : Req} {v : BitVec 9} (hp : s.phase = .idle) (ho : s.isOpen = true)
    (h : encodeRequest s.cfg r = .error v) : request r s = .next (s.invalid r v (rlenOfCode r.cmd)) := by
  simp [request, hp, ho, h, rejectRequest, evalEncoder, encOut_error s.cfg r h, State.invalid]

/-- Settles O25: the step is an admitted request whose VERR is that of a reserved code, which has no reply. -/
theorem reservedCodesAreRejected : Obligations.ReservedCodesAreRejected := by
  intro s r t rest hi hp ho hreserved
  have hverr := verr_of_reserved s.cfg hreserved
  have hne : verr s.cfg r ≠ 0 := by rw [hverr]; split <;> decide
  rw [step_cons s hi, ← hverr, ← rlenOfCode_of_reserved hreserved]
  exact (runRequest_eq _ r t).trans (request_invalid hp ho (encodeRequest_error s.cfg r hne))

/-! #### Replies and table words -/

/-- Settles O4: each reply format has its command's number of bytes, and they are the row's. -/
theorem replyDecodesToTheEncodedRow : Obligations.ReplyDecodesToTheEncodedRow := by
  intro cfg i rest hreply
  cases i with
  | setLimitReply | getVariableReply | getFirmwareReply => rfl
  | _ => cases hreply

/-- Settles O1: the decoder read on each word. -/
theorem wordsOfTheTableDecodeUnderProfilePGK : Obligations.WordsOfTheTableDecodeUnderProfilePGK := by
  refine ⟨?_, ?_, ?_, ?_, ?_, ?_, ?_, ?_⟩ <;> decide

theorem decodeWord_of_decodeTableWord {nbits w : Nat} {i : Instr} (h : decodeTableWord nbits w = some i) :
    decodeWord Config.pgk (bytesOfWord (nbits / 8) w) = .ok i := by
  unfold decodeTableWord at h
  split at h
  · next j hj => rw [hj, Option.some.inj h]
  · cases h

/-- Settles O43: a row event runs its row (`step_cons`), a decoded word is presented as one (`step_withFetchWord`), and no other word is. -/
theorem stepRunsTheDecodedRow : Obligations.StepRunsTheDecodedRow := by
  refine ⟨fun s i t rest hi => step_cons s hi, fun s nbits w i h => step_withFetchWord s h, ?tableWord, ?noRow⟩
  case tableWord =>
    intro s nbits w i hcfg h
    exact step_withFetchWord s (hcfg ▸ decodeWord_of_decodeTableWord h)
  case noRow =>
    intro s nbits w why h
    simp [State.withFetchWord, presentWord, h, admitting]

/-! #### Where a step is stuck (R205) -/

/-- The events that the transition table does not list in a state (R205). -/
def Unlisted (s : State) : Event → Prop
  | .wdone _ => s.phase ≠ .writing
  | .rdone _ => s.phase ≠ .reading
  | .openTransport => s.isOpen = true
  | .closeTransport => s.isOpen = false
  | .req _ _ => False
  | .row _ _ => False
  | .evalEncoder _ => False
  | .evalDecoder _ => False
  | .read _ => False
  | .powerOn => False

/-- A result with a next state is no fault. -/
theorem not_fault_of_next {x : Result} (h : ∃ t, x = .next t) : ¬ ∃ f, x = .fault f := by
  obtain ⟨t, rfl⟩ := h
  rintro ⟨f, hf⟩
  cases hf

/-- Under the invariant an event is stuck exactly when the table does not list it: an exchange has OPEN = 1, so OPEN stops no completion in its
phase, and PHASE no `open` of a closed transport. -/
theorem runEvent_fault_iff {s : State} (hinv : s.Inv) (e : Event) : (∃ f, runEvent e s = .fault f) ↔ Unlisted s e := by
  cases e with
  | wdone w =>
    obtain ⟨hstop, hx⟩ | ⟨hp, -, -, hx⟩ | ⟨hp, -, _, _, -, -, hx⟩ := writeDone_cases s w
    · refine iff_of_true ⟨_, hx⟩ (hstop.elim id fun hclosed hp => ?_)
      simp [hinv.openWhileBusy (by simp [hp])] at hclosed
    · exact iff_of_false (not_fault_of_next ⟨_, hx⟩) fun h => h hp
    · exact iff_of_false (not_fault_of_next ⟨_, hx⟩) fun h => h hp
  | rdone bytes =>
    obtain ⟨hstop, hx⟩ | ⟨hp, -, -, hx⟩ | ⟨hp, -, _, -, hx⟩ := readDone_cases s bytes
    · refine iff_of_true ⟨_, hx⟩ (hstop.elim id fun hclosed hp => ?_)
      simp [hinv.openWhileBusy (by simp [hp])] at hclosed
    · exact iff_of_false (not_fault_of_next ⟨_, hx⟩) fun h => h hp
    · exact iff_of_false (not_fault_of_next ⟨_, hx⟩) fun h => h hp
  | openTransport =>
    obtain ⟨hstop, hx⟩ | ⟨-, ho, hx⟩ := openTransport_cases s
    · exact iff_of_true ⟨_, hx⟩ (hstop.elim hinv.openWhileBusy id)
    · exact iff_of_false (not_fault_of_next ⟨_, hx⟩) (by simp [Unlisted, ho])
  | closeTransport =>
    obtain ⟨ho, hx⟩ | ⟨-, ho, hx⟩ | ⟨-, ho, hx⟩ := closeTransport_cases s
    · exact iff_of_true ⟨_, hx⟩ ho
    · exact iff_of_false (not_fault_of_next ⟨_, hx⟩) (by simp [Unlisted, ho])
    · exact iff_of_false (not_fault_of_next ⟨_, hx⟩) (by simp [Unlisted, ho])
  | req r n =>
    have hx : runEvent (.req r n) s = request r (driveRequest r n s) := runRequest_eq s r n
    exact iff_of_false (not_fault_of_next (hx ▸ request_next _ r)) id
  | row i n => exact iff_of_false (not_fault_of_next (exec_next i _)) id
  | evalEncoder | evalDecoder | read | powerOn => exact iff_of_false (not_fault_of_next ⟨_, rfl⟩) id

/-- Settles O36: `step_not_refused`, and a step is stuck on an empty schedule or on an event that the table does not list. -/
theorem stepIsStuckExactlyWhereTheTableListsNothing : Obligations.StepIsStuckExactlyWhereTheTableListsNothing := by
  refine ⟨step_not_refused, fun s hinv => ?_⟩
  cases hi : s.inputs with
  | nil => exact iff_of_true ⟨_, step_nil s hi⟩ (.inl rfl)
  | cons e rest =>
    rw [step_cons s hi, runEvent_fault_iff (hinv.withInputs rest) e]
    cases e <;> simp [Unlisted]

end Sys2Proof.Machine

/-! ### The Frame Encoder (spec/40_frame_builder.md): VERR, the fields of a frame, and what each row issues -/

namespace Sys2Proof.Machine

/-! #### A row, valid or not -/

/-- A request row's request names that row again, whatever the other ports held (R127). -/
theorem ofReq_rowRequest {i : Instr} (h : i.isRequest = true) (prev : Req) : Instr.ofReq (rowRequest i prev) = some i := by
  cases i with
  | setLimitReply | getVariableReply | getFirmwareReply => cases h
  | _ => rfl

theorem rowRequest_cmd {i : Instr} (h : i.isRequest = true) (prev : Req) : (rowRequest i prev).cmd = i.command.code := by
  cases i with
  | setLimitReply | getVariableReply | getFirmwareReply => cases h
  | _ => rfl

/-- An admitted request whose frame is built leaves the state `State.issued` names (R193). -/
theorem request_issued {s : State} {r : Req} {frame : List Byte} (hp : s.phase = .idle) (ho : s.isOpen = true)
    (h : encodeRequest s.cfg r = .ok frame) : request r s = .next (s.issued r frame (rlenOfCode r.cmd)) := by
  obtain ⟨hlength, -, -⟩ := encodeRequest_length h
  simp [request, hp, ho, h, issueWrite, evalEncoder, encOut_ok s.cfg r h, State.issued, hlength]

/-- The state in which a row's frame has been issued (R193). -/
abbrev State.issuedRow (s : State) (i : Instr) (frame : List Byte) : State := s.issued (rowRequest i s.encIn) frame i.command.rlen

/-- The state in which a row has failed with a VERR (R192). -/
abbrev State.invalidRow (s : State) (i : Instr) (v : BitVec 9) : State := s.invalid (rowRequest i s.encIn) v i.command.rlen

/-- An admitted row with an encoding issues it (R193). -/
theorem exec_wellFormed {s : State} {i : Instr} (hp : s.phase = .idle) (ho : s.isOpen = true) (hreq : i.isRequest = true)
    (hwf : i.wellFormed s.cfg = true) : exec i s = .next (s.issuedRow i (encode s.cfg i)) := by
  have hframe := encoderOutputsTheRowsEncoding s.cfg _ i (ofReq_rowRequest hreq s.encIn) hwf
  rw [exec_request s i hreq, request_issued hp ho hframe, rowRequest_cmd hreq, rlenOfCode_code]

/-- An admitted row without an encoding ends in VALIDATION_ERROR with the VERR of its request (R192). -/
theorem exec_illFormed {s : State} {i : Instr} (hp : s.phase = .idle) (ho : s.isOpen = true) (hreq : i.isRequest = true)
    (hwf : i.wellFormed s.cfg = false) : exec i s = .next (s.invalidRow i (verr s.cfg (rowRequest i s.encIn))) := by
  have hverr : verr s.cfg (rowRequest i s.encIn) ≠ 0 := by
    rw [Ne, ← rowIsWellFormedExactlyWhenVerrIsZero s.cfg _ i (ofReq_rowRequest hreq s.encIn), hwf]
    decide
  rw [exec_request s i hreq, request_invalid hp ho (encodeRequest_error s.cfg _ hverr), rowRequest_cmd hreq, rlenOfCode_code]

/-! #### The encodings, in the values of their operands -/

theorem encodeAddressed_eq (cfg : Config) (c : Command) {dev : Byte} (h : dev.toNat ≤ 127) (payload : List Byte) :
    encodeAddressed cfg c dev payload = 0xAA :: dev :: cfg.opcA.get c :: payload := by
  rw [encodeAddressed, dataByte_eq dev h, header]

/-- A field of at most 8 bits is the byte of the number's quotient and remainder. -/
theorem field_eq_ofNat {w : Nat} (v : BitVec w) (lo n : Nat) (h : n ≤ 8) : field v lo n = BitVec.ofNat 8 (v.toNat / 2 ^ lo % 2 ^ n) := by
  rw [← field_toNat v lo n h, BitVec.ofNat_toNat, BitVec.setWidth_eq]

theorem payloadPW13_eq {pwm : Half} (h : pwm.toNat ≤ 3200) :
    payloadPW13 pwm = [BitVec.ofNat 8 (pwm.toNat % 32), BitVec.ofNat 8 (pwm.toNat / 32)] := by
  have hlo : pwm.toNat / 2 ^ 0 % 2 ^ 5 = pwm.toNat % 32 := by omega
  have hhi : pwm.toNat / 2 ^ 5 % 2 ^ 7 = pwm.toNat / 32 := by omega
  rw [payloadPW13, field_eq_ofNat _ _ _ (by decide), field_eq_ofNat _ _ _ (by decide), hlo, hhi]

theorem payloadPW7_eq {pwm : Half} (h : pwm.toNat ≤ 127) : payloadPW7 pwm = [BitVec.ofNat 8 pwm.toNat] := by
  have hpwm : pwm.toNat / 2 ^ 0 % 2 ^ 7 = pwm.toNat := by omega
  rw [payloadPW7, field_eq_ofNat _ _ _ (by decide), hpwm]

theorem payloadPD_eq {duty : Half} (h : duty.toNat ≤ 32) : payloadPD duty = [BitVec.ofNat 8 duty.toNat] := by
  have hduty : duty.toNat / 2 ^ 0 % 2 ^ 6 = duty.toNat := by omega
  rw [payloadPD, field_eq_ofNat _ _ _ (by decide), hduty]

theorem payloadPV_eq {id : Byte} (h : id.toNat ≤ 127) : payloadPV id = [id] := by
  rw [payloadPV_eq_encode, encodePV, dataByte_eq id h]

theorem payloadPL_eq {id : Byte} {value : Half} (hid : id.toNat ≤ 127) (hvalue : value.toNat ≤ 16383) :
    payloadPL id value = [id, BitVec.ofNat 8 (value.toNat % 128), BitVec.ofNat 8 (value.toNat / 128)] := by
  have hlo : value.toNat / 2 ^ 0 % 2 ^ 7 = value.toNat % 128 := by omega
  have hhi : value.toNat / 2 ^ 7 % 2 ^ 7 = value.toNat / 128 := by omega
  have hpid : field id 0 7 = id := List.head_eq_of_cons_eq (payloadPV_eq hid)
  rw [payloadPL, hpid, field_eq_ofNat value _ _ (by decide), field_eq_ofNat value _ _ (by decide), hlo, hhi]

/-- Settles O11: the two bytes are pwm mod 32 and pwm / 32. -/
theorem pwm13SplitRecoversThePwm : Obligations.Pwm13SplitRecoversThePwm := by
  intro pwm h
  refine ⟨_, _, payloadPW13_eq h, ?_⟩
  rw [BitVec.toNat_ofNat, BitVec.toNat_ofNat]
  omega

/-- Settles O12: the two bytes are value mod 128 and value / 128, and the low one has no bit of the shifted high one. -/
theorem limitValueSplitRecoversTheValue : Obligations.LimitValueSplitRecoversTheValue := by
  intro pid value h
  have hlo : (field value 0 7).toNat = value.toNat % 128 := by rw [field_toNat _ _ _ (by decide)]; omega
  have hhi : (field value 7 7).toNat = value.toNat / 128 := by rw [field_toNat _ _ _ (by decide)]; omega
  refine ⟨_, _, _, rfl, ?_, field_le_127 _ _ le_rfl, field_le_127 _ _ le_rfl⟩
  rw [hlo, hhi, ← Nat.shiftLeft_add_eq_or_of_lt (Nat.mod_lt _ (by decide)), Nat.shiftLeft_eq]
  exact Nat.div_add_mod' value.toNat 128

/-! #### VERR, by a request's command -/

/-- The mask is the union of its conditions' bits. -/
theorem verrMask_eq_or : ∀ b0 b1 b2 b3 b4 b5 b6 b7 b8 : Bool, verrMask b0 b1 b2 b3 b4 b5 b6 b7 b8 =
    (if b0 then 0x001 else 0) ||| (if b1 then 0x002 else 0) ||| (if b2 then 0x004 else 0) ||| (if b3 then 0x008 else 0) |||
    (if b4 then 0x010 else 0) ||| (if b5 then 0x020 else 0) ||| (if b6 then 0x040 else 0) ||| (if b7 then 0x080 else 0) |||
    (if b8 then 0x100 else 0) := by
  decide

/-- The VERR bit of a command's address: DEV_RANGE, or BCAST_RESP for a Broadcast of a response-bearing command (R123). -/
def addressVerr (mode : Mode) (dev : Byte) (c : Command) : BitVec 9 :=
  match mode with
  | .addressed => if 127 < dev.toNat then 0x004 else 0
  | .broadcast => if c.rlen = 0 then 0 else 0x002

/-- The VERR bits of a command's own operands (R123). -/
def operandVerr (cfg : Config) (pval : Half) (pid : Byte) : Command → BitVec 9
  | .exitSafeStart => 0
  | .motorForward => if 3200 < pval.toNat then 0x008 else 0
  | .motorReverse => if 3200 < pval.toNat then 0x008 else 0
  | .motorForward7Bit => if 127 < pval.toNat then 0x010 else 0
  | .motorReverse7Bit => if 127 < pval.toNat then 0x010 else 0
  | .brake => if 32 < pval.toNat then 0x020 else 0
  | .stop => 0
  | .setLimit => (if 16383 < pval.toNat then 0x040 else 0) ||| (if cfg.limitIdValid pid then 0 else 0x080)
  | .getVariable => if cfg.varIdValid pid then 0 else 0x100
  | .getFirmware => 0

/-- A request is Addressed or Broadcast, so one of the two address conditions at most can hold. -/
theorem bcastResp_or_devRange {r : Req} {c : Command} (hc : r.cmd = c.code) :
    ((if bcastResp r then 0x002 else 0) ||| (if devRange r then 0x004 else 0) : BitVec 9) = addressVerr r.mode r.dev c := by
  cases hm : r.mode <;> simp [bcastResp, devRange, hm, hc, addressVerr, Nat.pos_iff_ne_zero]

/-- VERR of a request of a defined command: the bits of its address and of its operands, all at once (R123). -/
theorem verr_of_command (cfg : Config) {r : Req} {c : Command} (hc : r.cmd = c.code) :
    verr cfg r = addressVerr r.mode r.dev c ||| operandVerr cfg r.pval r.pid c := by
  have hdefined : cmdUndef r = false := by rw [cmdUndef, hc]; cases c <;> rfl
  have hunknown (known : Bool) (bit : BitVec 9) : (if known = false then bit else 0#9) = if known then 0#9 else bit := by
    cases known <;> rfl
  rw [verr, verrMask_eq_or, hdefined, ← bcastResp_or_devRange hc]
  cases c <;> simp [hc, pwm13Range, pwm7Range, dutyRange, lvalRange, lidInvalid, vidInvalid, Command.code, operandVerr,
    BitVec.or_assoc, hunknown]

/-- A code has a reply exactly when it is SetLimit's, GetVariable's or GetFirmware's (R87). -/
theorem rlenOfCode_pos_iff (code : BitVec 4) : 0 < rlenOfCode code ↔ 7 ≤ code.toNat ∧ code.toNat ≤ 9 := by
  revert code; decide

/-- Settles O7: each bit of the mask is its condition, and the conditions are R123's. -/
theorem verrBitsAreExactlyTheViolatedConditions : Obligations.VerrBitsAreExactlyTheViolatedConditions := by
  intro cfg r
  refine ⟨?_, ?_, ?_, ?_, ?_, ?_, ?_, ?_, ?_⟩
  · rw [verr_bit0, cmdUndef_iff]
  · rw [verr_bit1, bcastResp_iff, rlenOfCode_pos_iff]
  · rw [verr_bit2, devRange_iff]
  · rw [verr_bit3, pwm13Range_iff]
  · rw [verr_bit4, pwm7Range_iff]
  · rw [verr_bit5, dutyRange_iff]
  · rw [verr_bit6, lvalRange_iff]
  · rw [verr_bit7, lidInvalid_iff]
  · rw [verr_bit8, vidInvalid_iff]

/-! #### The encoder's result: closed on failure, and a function of the used inputs -/

/-- A request that the encoder fails makes no transport call, in whatever phase it is presented (R125). -/
theorem request_error_calls {s : State} {r : Req} {v : BitVec 9} (h : encodeRequest s.cfg r = .error v) :
    ∃ t, request r s = .next t ∧ t.calls = s.calls := by
  obtain ⟨-, hx⟩ | ⟨-, -, hx⟩ | ⟨-, -, _, -, hx⟩ | ⟨-, -, frame, hok, -⟩ := request_cases s r
  · exact ⟨_, hx, rfl⟩
  · exact ⟨_, hx, rfl⟩
  · exact ⟨_, hx, rfl⟩
  · cases h.symm.trans hok

/-- Settles O8: a nonzero VERR is the encoder's error, whose output ports hold no frame; with VERR 0 a frame is built. -/
theorem encoderFailsClosed : Obligations.EncoderFailsClosed := by
  intro r s
  constructor
  · intro hne
    have herr := encodeRequest_error s.cfg r hne
    have hout := encOut_error s.cfg r herr
    exact ⟨herr, by rw [hout], by rw [hout], fun i => by simp [portValue, hout], request_error_calls herr⟩
  · intro hzero
    obtain ⟨c, hc⟩ := exists_command_of_verr s.cfg r hzero
    have hok := encodeRequest_ok s.cfg r hzero hc
    have hout := encOut_ok s.cfg r hok
    exact ⟨_, hok, by rw [hout], by rw [hout]⟩

/-- A frame's prefix and the address's VERR bits use the device id in Addressed mode only (R121, R127). -/
theorem address_congr {mode : Mode} {dev dev' : Byte} (h : mode = .addressed → dev = dev') (c : Command) :
    framePrefix mode dev = framePrefix mode dev' ∧ addressVerr mode dev c = addressVerr mode dev' c := by
  cases mode with
  | addressed => rw [h rfl]; exact ⟨rfl, rfl⟩
  | broadcast => exact ⟨rfl, rfl⟩

/-- A payload and the operands' VERR bits use PVAL with the codes 1 to 5 and 7, and PID with 7 and 8 (R127). -/
theorem operand_congr (cfg : Config) {c : Command} {pval pval' : Half} {pid pid' : Byte}
    (hpval : (1 ≤ c.code.toNat ∧ c.code.toNat ≤ 5) ∨ c.code = 7 → pval = pval') (hpid : c.code = 7 ∨ c.code = 8 → pid = pid') :
    payload c pval pid = payload c pval' pid' ∧ operandVerr cfg pval pid c = operandVerr cfg pval' pid' c := by
  cases c with
  | exitSafeStart | stop | getFirmware => exact ⟨rfl, rfl⟩
  | motorForward | motorReverse | motorForward7Bit | motorReverse7Bit | brake => rw [hpval (by decide)]; exact ⟨rfl, rfl⟩
  | setLimit => rw [hpval (by decide), hpid (by decide)]; exact ⟨rfl, rfl⟩
  | getVariable => rw [hpid (by decide)]; exact ⟨rfl, rfl⟩

/-- The encoder on a defined command, as its VERR decides (R126, R129). -/
theorem encodeRequest_of_command (cfg : Config) {r : Req} {c : Command} (hc : r.cmd = c.code) :
    encodeRequest cfg r = if verr cfg r = 0 then .ok (framePrefix r.mode r.dev ++ opcode cfg r.mode c :: payload c r.pval r.pid)
      else .error (verr cfg r) := by
  rw [encodeRequest, hc, Command.ofCode_code]

/-- The encoder on a reserved code uses the device id in Addressed mode only (R127). -/
theorem encodeRequest_of_reserved_congr (cfg : Config) {r r' : Req} (hreserved : 10 ≤ r.cmd.toNat) (hcmd : r.cmd = r'.cmd)
    (hmode : r.mode = r'.mode) (hdev : r.mode = .addressed → r.dev = r'.dev) : encodeRequest cfg r = encodeRequest cfg r' := by
  have hnone := (Command.ofCode_eq_none_iff r.cmd).mpr hreserved
  have hverr : verr cfg r = verr cfg r' := by
    rw [verr_of_reserved cfg hreserved, verr_of_reserved cfg (hcmd ▸ hreserved), ← hmode]
    cases hm : r.mode with
    | addressed => rw [hdev hm]
    | broadcast => rfl
  rw [encodeRequest, encodeRequest, ← hcmd, hnone, hverr]

/-- Settles O13: the address's and the operands' parts of VERR and of the frame read used inputs only (`address_congr`, `operand_congr`), and
FLEN and RLENO the command and the mode. -/
theorem unusedInputsDoNotMatter : Obligations.UnusedInputsDoNotMatter := by
  intro cfg r r' hcmd hmode hdev hpval hpid
  have hresult : encodeRequest cfg r = encodeRequest cfg r' := by
    cases hcode : Command.ofCode r.cmd with
    | none => exact encodeRequest_of_reserved_congr cfg ((Command.ofCode_eq_none_iff _).mp hcode) hcmd hmode hdev
    | some c =>
      have hc := (Command.ofCode_eq_some_iff _ _).mp hcode
      have hc' : r'.cmd = c.code := hcmd ▸ hc
      rw [hc] at hpval hpid
      obtain ⟨hprefix, hbits⟩ := address_congr hdev c
      obtain ⟨hpayload, hoperands⟩ := operand_congr cfg hpval hpid
      rw [encodeRequest_of_command cfg hc, encodeRequest_of_command cfg hc', verr_of_command cfg hc, verr_of_command cfg hc', ← hmode,
        hprefix, hbits, hpayload, hoperands]
  exact ⟨hresult, by rw [encOut, encOut, flenOf, flenOf, hresult, hcmd, hmode]⟩

/-! #### A command's row in a mode, issued and invalid -/

theorem isRequest_commandRow (c : Command) (mode : Mode) (dev : Byte) (pval : Half) (pid : Byte) :
    (commandRow c mode dev pval pid).isRequest = true := by
  cases mode <;> cases c <;> rfl

theorem command_commandRow (c : Command) (mode : Mode) (dev : Byte) (pval : Half) (pid : Byte) :
    (commandRow c mode dev pval pid).command = c := by
  cases mode <;> cases c <;> rfl

/-- VERR of a command's row: its address's and its operands' bits, whatever the ports held that it does not drive. -/
theorem verr_commandRow (cfg : Config) (c : Command) (mode : Mode) (dev : Byte) (pval : Half) (pid : Byte) (prev : Req) :
    verr cfg (rowRequest (commandRow c mode dev pval pid) prev) = addressVerr mode dev c ||| operandVerr cfg pval pid c := by
  have hcmd := rowRequest_cmd (isRequest_commandRow c mode dev pval pid) prev
  rw [command_commandRow] at hcmd
  rw [verr_of_command cfg hcmd]
  cases mode <;> cases c <;> rfl

theorem checks_addressed_eq_false {cfg : Config} {c : Command} {dev : Byte} {pval : Half} {pid : Byte}
    (h : 127 < dev.toNat ∨ operandsInRange cfg pval pid c = false) : checks cfg c .addressed dev pval pid = false := by
  obtain hdev | hoperands := h
  · simp [checks, deviceInRange, hdev]
  · simp [checks, hoperands]

theorem checks_broadcast_eq_false {cfg : Config} {c : Command} {dev : Byte} {pval : Half} {pid : Byte}
    (h : c.rlen ≠ 0 ∨ operandsInRange cfg pval pid c = false) : checks cfg c .broadcast dev pval pid = false := by
  obtain hrlen | hoperands := h
  · simp [checks, hrlen]
  · simp [checks, hoperands]

section Rows

variable {s : State} (hp : s.phase = .idle) (ho : s.isOpen = true) (c : Command) {dev : Byte} {pval : Half} {pid : Byte}
include hp ho

/-- An Addressed row that passes its checks issues HEADER, the device id, the opcode and its payload. -/
theorem exec_addressed_issued {pl : List Byte} (hdev : dev.toNat ≤ 127) (hoperands : operandsInRange s.cfg pval pid c = true)
    (hpayload : payload c pval pid = pl) :
    exec (commandRow c .addressed dev pval pid) s =
      .next (s.issuedRow (commandRow c .addressed dev pval pid) (0xAA :: dev :: s.cfg.opcA.get c :: pl)) := by
  have hwf : (commandRow c .addressed dev pval pid).wellFormed s.cfg = true := by
    rw [wellFormed_commandRow, checks, (deviceInRange_iff dev).mpr hdev, hoperands]; rfl
  rw [exec_wellFormed hp ho (isRequest_commandRow ..) hwf, encode_commandRow_addressed, encodeAddressed_eq s.cfg c hdev, hpayload]

/-- A Broadcast row of a command without a reply that passes its checks issues the opcode and its payload. -/
theorem exec_broadcast_issued {pl : List Byte} (hrlen : c.rlen = 0) (hoperands : operandsInRange s.cfg pval pid c = true)
    (hpayload : payload c pval pid = pl) :
    exec (commandRow c .broadcast dev pval pid) s = .next (s.issuedRow (commandRow c .broadcast dev pval pid) (s.cfg.opcB.get c :: pl)) := by
  have hwf : (commandRow c .broadcast dev pval pid).wellFormed s.cfg = true :=
    (wellFormed_commandRow ..).trans ((checks_broadcast_iff ..).mpr ⟨hrlen, hoperands⟩)
  rw [exec_wellFormed hp ho (isRequest_commandRow ..) hwf, encode_commandRow_broadcast s.cfg hrlen, encodeBroadcast, hpayload]

/-- A row that fails a check of its command ends in VALIDATION_ERROR with the bits of its address and its operands. -/
theorem exec_invalid {mode : Mode} {v : BitVec 9} (hchecks : checks s.cfg c mode dev pval pid = false)
    (hv : addressVerr mode dev c ||| operandVerr s.cfg pval pid c = v) :
    exec (commandRow c mode dev pval pid) s = .next (s.invalidRow (commandRow c mode dev pval pid) v) := by
  rw [exec_illFormed hp ho (isRequest_commandRow ..) ((wellFormed_commandRow ..).trans hchecks), verr_commandRow, hv]

/-- A command without a reply whose one operand is PVAL, at most `max` and with VERR bit `bit`: what its rows issue in both modes, and the
bits with which they fail. -/
theorem exec_pvalCommand (max : Nat) (bit : BitVec 9) {pl : List Byte} (hrlen : c.rlen = 0)
    (hrange : operandsInRange s.cfg pval pid c = decide (pval.toNat ≤ max))
    (hbit : operandVerr s.cfg pval pid c = if max < pval.toNat then bit else 0)
    (hpayload : pval.toNat ≤ max → payload c pval pid = pl) :
    (dev.toNat ≤ 127 → pval.toNat ≤ max →
      exec (commandRow c .addressed dev pval pid) s =
        .next (s.issuedRow (commandRow c .addressed dev pval pid) (0xAA :: dev :: s.cfg.opcA.get c :: pl))) ∧
    (pval.toNat ≤ max →
      exec (commandRow c .broadcast dev pval pid) s =
        .next (s.issuedRow (commandRow c .broadcast dev pval pid) (s.cfg.opcB.get c :: pl))) ∧
    (127 < dev.toNat ∨ max < pval.toNat →
      exec (commandRow c .addressed dev pval pid) s = .next (s.invalidRow (commandRow c .addressed dev pval pid)
        ((if 127 < dev.toNat then 0x004 else 0) ||| (if max < pval.toNat then bit else 0)))) ∧
    (max < pval.toNat →
      exec (commandRow c .broadcast dev pval pid) s = .next (s.invalidRow (commandRow c .broadcast dev pval pid) bit)) := by
  have hvalid (h : pval.toNat ≤ max) : operandsInRange s.cfg pval pid c = true := hrange.trans (decide_eq_true h)
  have hinvalid (h : max < pval.toNat) : operandsInRange s.cfg pval pid c = false := hrange.trans (decide_eq_false (Nat.not_le.mpr h))
  refine ⟨fun hdev h => ?_, fun h => ?_, fun h => ?_, fun h => ?_⟩
  · exact exec_addressed_issued hp ho c hdev (hvalid h) (hpayload h)
  · exact exec_broadcast_issued hp ho c hrlen (hvalid h) (hpayload h)
  · exact exec_invalid hp ho c (checks_addressed_eq_false (h.imp_right hinvalid)) (by rw [hbit, addressVerr])
  · exact exec_invalid hp ho c (checks_broadcast_eq_false (.inr (hinvalid h)))
      (by rw [hbit, addressVerr, if_pos hrlen, if_pos h]; exact BitVec.zero_or)

end Rows

/-- Settles O15: the control commands have no payload and no operand, so DEV alone can be out of range. -/
theorem controlCommandsFollowTheirRules : Obligations.ControlCommandsFollowTheirRules := by
  intro s dev hp ho
  refine ⟨fun hdev => ⟨?_, ?_⟩, ?_, ?_, fun hdev => ⟨?_, ?_⟩⟩
  · exact exec_addressed_issued hp ho .exitSafeStart (pval := 0) (pid := 0) hdev rfl rfl
  · exact exec_addressed_issued hp ho .stop (pval := 0) (pid := 0) hdev rfl rfl
  · exact exec_broadcast_issued hp ho .exitSafeStart (dev := 0) (pval := 0) (pid := 0) rfl rfl rfl
  · exact exec_broadcast_issued hp ho .stop (dev := 0) (pval := 0) (pid := 0) rfl rfl rfl
  · exact exec_invalid hp ho .exitSafeStart (pval := 0) (pid := 0) (checks_addressed_eq_false (.inl hdev))
      (BitVec.or_zero.trans (if_pos hdev))
  · exact exec_invalid hp ho .stop (pval := 0) (pid := 0) (checks_addressed_eq_false (.inl hdev))
      (BitVec.or_zero.trans (if_pos hdev))

/-- Settles O16: both directions have the payload PW13, and a 13-bit pwm is at most 3200. -/
theorem motor13CommandsFollowTheirRules : Obligations.Motor13CommandsFollowTheirRules := by
  intro s dev pwm hp ho
  obtain ⟨hfA, hfB, hfBadA, hfBadB⟩ := exec_pvalCommand hp ho .motorForward (dev := dev) (pid := 0) 3200 0x008
    rfl rfl rfl payloadPW13_eq
  obtain ⟨hrA, hrB, hrBadA, hrBadB⟩ := exec_pvalCommand hp ho .motorReverse (dev := dev) (pid := 0) 3200 0x008
    rfl rfl rfl payloadPW13_eq
  exact ⟨fun hdev h => ⟨hfA hdev h, hrA hdev h⟩, fun h => ⟨hfB h, hrB h⟩, fun h => ⟨hfBadA h, hrBadA h⟩, fun h => ⟨hfBadB h, hrBadB h⟩⟩

/-- Settles O17: both directions have the payload PW7, and a 7-bit pwm is at most 127. -/
theorem motor7BitCommandsFollowTheirRules : Obligations.Motor7BitCommandsFollowTheirRules := by
  intro s dev pwm hp ho
  obtain ⟨hfA, hfB, hfBadA, hfBadB⟩ := exec_pvalCommand hp ho .motorForward7Bit (dev := dev) (pid := 0) 127 0x010
    rfl rfl rfl payloadPW7_eq
  obtain ⟨hrA, hrB, hrBadA, hrBadB⟩ := exec_pvalCommand hp ho .motorReverse7Bit (dev := dev) (pid := 0) 127 0x010
    rfl rfl rfl payloadPW7_eq
  exact ⟨fun hdev h => ⟨hfA hdev h, hrA hdev h⟩, fun h => ⟨hfB h, hrB h⟩, fun h => ⟨hfBadA h, hrBadA h⟩, fun h => ⟨hfBadB h, hrBadB h⟩⟩

/-- Settles O18: Brake has the payload PD, and a duty is at most 32, 0 among them. -/
theorem brakeFollowsItsRule : Obligations.BrakeFollowsItsRule := by
  intro s dev duty hp ho
  exact exec_pvalCommand hp ho .brake (pid := 0) 32 0x020 rfl rfl rfl payloadPD_eq

/-- Settles O19: an admitted configuration's limit ids are data bytes, so the id is sent as it is. -/
theorem setLimitIssuesTheSplitValue : Obligations.SetLimitIssuesTheSplitValue := by
  intro s dev limitId value hadm hp ho hdev hid hvalue
  have hrange : operandsInRange s.cfg value limitId .setLimit = true :=
    Bool.and_eq_true_iff.mpr ⟨hid, (limitValueInRange_iff value).mpr hvalue⟩
  exact exec_addressed_issued hp ho .setLimit hdev hrange (payloadPL_eq (hadm.limitIdsBounded limitId hid) hvalue)

/-- Settles O20: an admitted configuration's variable ids are data bytes, so the id is sent as it is. -/
theorem getVariableIssuesItsFrame : Obligations.GetVariableIssuesItsFrame := by
  intro s dev variableId hadm hp ho hdev hid
  exact exec_addressed_issued hp ho .getVariable (pval := 0) hdev hid (payloadPV_eq (hadm.varIdsBounded variableId hid))

/-- Settles O21: GetFirmware has no payload and no operand but the device id. -/
theorem getFirmwareIssuesItsFrame : Obligations.GetFirmwareIssuesItsFrame := by
  intro s dev hp ho hdev
  exact exec_addressed_issued hp ho .getFirmware (pval := 0) (pid := 0) hdev rfl rfl

/-- Settles O22: a Broadcast of a response-bearing command fails whatever its operands, whose bits are reported with it. -/
theorem broadcastQueriesAlwaysFail : Obligations.BroadcastQueriesAlwaysFail := by
  intro s pid value hp ho
  refine ⟨?setLimit, ?getVariable, ?getFirmware⟩
  case setLimit =>
    exact exec_invalid hp ho .setLimit (dev := 0) (checks_broadcast_eq_false (.inl (by decide))) (BitVec.or_assoc ..).symm
  case getVariable =>
    exact exec_invalid hp ho .getVariable (dev := 0) (pval := 0) (checks_broadcast_eq_false (.inl (by decide))) rfl
  case getFirmware =>
    exact exec_invalid hp ho .getFirmware (dev := 0) (pval := 0) (pid := 0) (checks_broadcast_eq_false (.inl (by decide))) BitVec.or_zero

/-- Settles O23: each bad operand fails a check of its command, and the mask has the bits of all that fail. -/
theorem invalidQueryOperandsAreReported : Obligations.InvalidQueryOperandsAreReported := by
  intro s dev pid value hp ho
  refine ⟨fun h => ?setLimit, fun h => ?getVariable, fun hdev => ?getFirmware⟩
  case setLimit =>
    have hbad : 127 < dev.toNat ∨ operandsInRange s.cfg value pid .setLimit = false := h.imp_right fun hoperand =>
      Bool.and_eq_false_iff.mpr (hoperand.symm.imp_right fun hvalue => decide_eq_false (Nat.not_le.mpr hvalue))
    exact exec_invalid hp ho .setLimit (checks_addressed_eq_false hbad) (BitVec.or_assoc ..).symm
  case getVariable =>
    exact exec_invalid hp ho .getVariable (pval := 0) (checks_addressed_eq_false h) rfl
  case getFirmware =>
    exact exec_invalid hp ho .getFirmware (pval := 0) (pid := 0) (checks_addressed_eq_false (.inl hdev))
      (BitVec.or_zero.trans (if_pos hdev))

end Sys2Proof.Machine

/-! ### The Response Decoder (spec/41_response_decoder.md): what a reply spells, and the exchange that returns it -/

namespace Sys2Proof.Machine

/-! #### The fields of a reply, as numbers -/

/-- The status is the byte mod 4: bits 7..2 are ignored (R174). -/
theorem limitStatusOf_eq (b : Byte) : limitStatusOf b = BitVec.ofNat 2 (b.toNat % 4) := by
  apply BitVec.eq_of_toNat_eq
  rw [limitStatusOf, extractLsb'_toNat_eq, BitVec.toNat_ofNat]
  omega

/-- The byte received first weighs 1, the second 256 (R53, R175). -/
theorem littleEndian_eq (lo hi : Byte) : littleEndian lo hi = BitVec.ofNat 16 (lo.toNat + 256 * hi.toNat) := by
  apply BitVec.eq_of_toNat_eq
  have hlo := lo.isLt
  have hhi := hi.isLt
  rw [littleEndian, BitVec.toNat_append, ← Nat.shiftLeft_add_eq_or_of_lt hlo, Nat.shiftLeft_eq, BitVec.toNat_ofNat]
  omega

theorem bcdDigit_of_le {nibble : BitVec 4} (h : nibble.toNat ≤ 9) : bcdDigit nibble = nibble.toNat := if_pos h

/-- Settles O31: the high nibble of `16*tens + units` is `tens` and the low one `units`, both decimal. -/
theorem packedBcdReadsAsItsDigits : Obligations.PackedBcdReadsAsItsDigits := by
  intro tens units htens hunits
  have hhigh : ((BitVec.ofNat 8 (16 * tens + units)).extractLsb' 4 4).toNat = tens := by
    rw [extractLsb'_toNat_eq, BitVec.toNat_ofNat]
    omega
  have hlow : ((BitVec.ofNat 8 (16 * tens + units)).extractLsb' 0 4).toNat = units := by
    rw [extractLsb'_toNat_eq, BitVec.toNat_ofNat]
    omega
  have htensDigit := bcdDigit_of_le (hhigh.trans_le htens)
  have hunitsDigit := bcdDigit_of_le (hlow.trans_le hunits)
  rw [bcdDigits, bcdDecimal, htensDigit, hunitsDigit, hhigh, hlow]
  exact ⟨rfl, rfl⟩

/-! #### One evaluation, by its command -/

section Evaluation

variable {d : DecIn}

theorem decodeResponse_status (hc : d.dcmd = 7) (h : 1 ≤ d.rcnt.toNat) :
    decodeResponse d = .ok (.limitStatus (BitVec.ofNat 2 (d.rbuf.b0.toNat % 4))) := by
  rw [decodeResponse_setLimit d hc h, limitStatusOf_eq]

theorem decodeResponse_rawValue (hc : d.dcmd = 8) (h : 2 ≤ d.rcnt.toNat) :
    decodeResponse d = .ok (.raw16 (BitVec.ofNat 16 (d.rbuf.b0.toNat + 256 * d.rbuf.b1.toNat))) := by
  rw [decodeResponse_getVariable d hc h, littleEndian_eq]

theorem decodeResponse_descriptor (hc : d.dcmd = 9) (h : 4 ≤ d.rcnt.toNat) :
    decodeResponse d = .ok (.firmware (BitVec.ofNat 16 (d.rbuf.b0.toNat + 256 * d.rbuf.b1.toNat)) d.rbuf.b2 d.rbuf.b3) := by
  rw [decodeResponse_getFirmware d hc h, littleEndian_eq]

/-- Fewer bytes than the command's reply has (R172). -/
theorem decodeResponse_short_of_command {c : Command} (hc : d.dcmd = c.code) (h : d.rcnt.toNat < c.rlen) :
    decodeResponse d = .error .shortInput := by
  have hrlen : rlenOfCode d.dcmd = c.rlen := by rw [hc, rlenOfCode_code]
  exact decodeResponse_short d (by omega) (by omega)

theorem evalDecoder_ok (s : State) {res : DecResult} (h : decodeResponse d = .ok res) :
    evalDecoder d s = { s with decIn := d, dec := some res } := by
  simp [evalDecoder, h, writeDecoded, driveDecoder]

theorem evalDecoder_error (s : State) {f : FaultName} (h : decodeResponse d = .error f) :
    evalDecoder d s = { s with decIn := d, fault := s.fault.insert f } := by
  simp [evalDecoder, h, raise, driveDecoder]

end Evaluation

/-- The decoder inputs a reply row drives (log 10). -/
abbrev rowInputs (i : Instr) (s : State) : DecIn :=
  { dcmd := i.command.code, rbuf := s.decIn.rbuf.load (encode s.cfg i), rcnt := BitVec.ofNat 3 i.command.rlen }

/-- A reply row is one evaluation of its own bytes, which drives the decoder's inputs and writes its outputs (R170). -/
theorem exec_reply_ok (s : State) {i : Instr} (hi : i.isRequest = false) {res : DecResult} (h : decodeResponse (rowInputs i s) = .ok res) :
    exec i s = .next { s with decIn := rowInputs i s, dec := some res } := by
  rw [exec_reply s i hi, evalDecoder_ok s h]

/-- Settles O26: the row evaluates one byte of SetLimit (`decodeResponse_status`). -/
theorem setLimitReplyGivesTheStatus : Obligations.SetLimitReplyGivesTheStatus := by
  refine ⟨fun s b0 => ?row, fun d hc => ⟨decodeResponse_status hc, fun hcnt => ?short⟩⟩
  case row => exact exec_reply_ok s rfl (decodeResponse_status rfl (Nat.le_refl 1))
  case short => exact decodeResponse_short_of_command (c := .setLimit) hc (by rw [hcnt]; decide)

/-- Settles O27: the row evaluates two bytes of GetVariable (`decodeResponse_rawValue`). -/
theorem getVariableReplyGivesTheRawValue : Obligations.GetVariableReplyGivesTheRawValue :=
  ⟨fun s _ _ => exec_reply_ok s rfl (decodeResponse_rawValue rfl (Nat.le_refl 2)),
    fun _ hc => ⟨decodeResponse_rawValue hc, decodeResponse_short_of_command (c := .getVariable) hc⟩⟩

/-- Settles O28: the row evaluates four bytes of GetFirmware (`decodeResponse_descriptor`). -/
theorem getFirmwareReplyGivesTheDescriptor : Obligations.GetFirmwareReplyGivesTheDescriptor :=
  ⟨fun s _ _ _ _ => exec_reply_ok s rfl (decodeResponse_descriptor rfl (Nat.le_refl 4)),
    fun _ hc => ⟨decodeResponse_descriptor hc, decodeResponse_short_of_command (c := .getFirmware) hc⟩⟩

/-- Settles O29: the step is the evaluation (`step_cons`), which writes what `decodeResponse` answers: no path where RLEN is 0 (R171), a short
input below RLEN (R172), a result otherwise. -/
theorem decoderFaultsExactlyOnMisuse : Obligations.DecoderFaultsExactlyOnMisuse := by
  intro s d rest hi
  have hstep : step s = .next (evalDecoder d { s with inputs := rest }) := step_cons s hi
  rw [hstep]
  refine ⟨fun ⟨h7, h8, h9⟩ => ?noPath, fun hshort => ?short, fun hwhole => ?result⟩
  case noPath =>
    have hrlen : rlenOfCode d.dcmd = 0 := by
      by_contra h
      obtain hc | hc | hc := rlenOfCode_ne_zero h
      exacts [h7 hc, h8 hc, h9 hc]
    rw [evalDecoder_error _ (decodeResponse_noPath d hrlen)]
    rfl
  case short =>
    have hfault : decodeResponse d = .error .shortInput := by
      obtain ⟨hc, h⟩ | ⟨hc, h⟩ | ⟨hc, h⟩ := hshort
      · exact decodeResponse_short_of_command (c := .setLimit) hc h
      · exact decodeResponse_short_of_command (c := .getVariable) hc h
      · exact decodeResponse_short_of_command (c := .getFirmware) hc h
    rw [evalDecoder_error _ hfault]
    rfl
  case result =>
    obtain ⟨hc, h⟩ | ⟨hc, h⟩ | ⟨hc, h⟩ := hwhole
    · exact ⟨_, congrArg _ (evalDecoder_ok _ (decodeResponse_status hc h))⟩
    · exact ⟨_, congrArg _ (evalDecoder_ok _ (decodeResponse_rawValue hc h))⟩
    · exact ⟨_, congrArg _ (evalDecoder_ok _ (decodeResponse_descriptor hc h))⟩

/-- Settles O30: each command's result names only the bytes of its own reply, and a command without one has no result to affect. -/
theorem decoderReadsExactlyTheReplyBytes : Obligations.DecoderReadsExactlyTheReplyBytes := by
  intro d d' hcmd hcnt hcnt' hb0 hb1 hb23
  by_cases h0 : rlenOfCode d.dcmd = 0
  · rw [decodeResponse_noPath d h0, decodeResponse_noPath d' (hcmd ▸ h0)]
  obtain hc | hc | hc := rlenOfCode_ne_zero h0 <;>
    rw [hc, rlenOfCode_code] at hcnt hcnt' hb1 hb23 <;> have hc' := hcmd.symm.trans hc
  · rw [decodeResponse_setLimit d hc hcnt, decodeResponse_setLimit d' hc' hcnt', hb0]
  · rw [decodeResponse_getVariable d hc hcnt, decodeResponse_getVariable d' hc' hcnt', hb0, hb1 (by decide)]
  · obtain ⟨hb2, hb3⟩ := hb23 (by decide)
    rw [decodeResponse_getFirmware d hc hcnt, decodeResponse_getFirmware d' hc' hcnt', hb0, hb1 (by decide), hb2, hb3]

/-! #### A whole exchange with a reply (R192-R200) -/

/-- The bytes are the command's whole reply, and the result is what they spell (R174-R176). -/
def Spells (code : BitVec 4) (bytes : List Byte) (res : DecResult) : Prop :=
  (code = 7 → ∃ b0, bytes = [b0] ∧ res = .limitStatus (BitVec.ofNat 2 (b0.toNat % 4))) ∧
  (code = 8 → ∃ b0 b1, bytes = [b0, b1] ∧ res = .raw16 (BitVec.ofNat 16 (b0.toNat + 256 * b1.toNat))) ∧
  (code = 9 → ∃ b0 b1 b2 b3, bytes = [b0, b1, b2, b3] ∧ res = .firmware (BitVec.ofNat 16 (b0.toNat + 256 * b1.toNat)) b2 b3)

/-- A whole reply loaded into RBUF decodes to what it spells, whatever RBUF held before (R200). -/
theorem decodeResponse_load {code : BitVec 4} (h0 : rlenOfCode code ≠ 0) {bytes : List Byte} (hlen : bytes.length = rlenOfCode code)
    (b : ReplyBuffer) : ∃ res, Spells code bytes res ∧
      decodeResponse { dcmd := code, rbuf := b.load bytes, rcnt := BitVec.ofNat 3 bytes.length } = .ok res := by
  obtain rfl | rfl | rfl := rlenOfCode_ne_zero h0 <;> rw [rlenOfCode_code] at hlen
  · obtain ⟨b0, rfl⟩ := List.length_eq_one_iff.mp hlen
    exact ⟨_, ⟨fun _ => ⟨b0, rfl, rfl⟩, nofun, nofun⟩, decodeResponse_status rfl (Nat.le_refl 1)⟩
  · obtain ⟨b0, b1, rfl⟩ := List.length_eq_two.mp hlen
    exact ⟨_, ⟨nofun, fun _ => ⟨b0, b1, rfl, rfl⟩, nofun⟩, decodeResponse_rawValue rfl (Nat.le_refl 2)⟩
  · obtain ⟨b0, b1, b2, b3, rfl⟩ := List.length_eq_four.mp hlen
    exact ⟨_, ⟨nofun, nofun, fun _ => ⟨b0, b1, b2, b3, rfl, rfl⟩⟩, decodeResponse_descriptor rfl (Nat.le_refl 4)⟩

/-- In READING with OPEN = 1 and CUR latched, the step by `rdone` completes the read in flight (R199). -/
theorem step_rdone {s : State} {bytes : List Byte} {l : Latch} {rest : List Event} (hi : s.inputs = .rdone bytes :: rest)
    (hp : s.phase = .reading) (ho : s.isOpen = true) (hl : s.cur = some l) :
    step s = .next (completeRead bytes l { s with inputs := rest }) := by
  rw [step_cons s hi]
  simp [runEvent, readDone, hp, ho, hl]

/-- A whole reply that decodes ends the exchange with its result (R200). -/
theorem completeRead_of_decoded (s : State) {bytes : List Byte} {l : Latch} (hlen : bytes.length = l.rlen) {res : DecResult}
    (h : decodeResponse (replyInputs bytes l s) = .ok res) :
    completeRead bytes l s = finish (.ok (some res)) (writeDecoded res (driveDecoder (replyInputs bytes l s) s)) := by
  rw [completeRead, if_neg hlen.not_gt, if_neg hlen.not_lt]
  simp only [h]

section Exchange

variable {s : State} {r : Req} {n : Nat} {frame : List Byte} {rest : List Event}

/-- What a request on the ports latches with its frame (R193). -/
abbrev requestLatch (r : Req) (frame : List Byte) : Latch := ⟨r.cmd, frame, frame.length, rlenOfCode r.cmd⟩

/-- The state in WRITING that a request on the ports leads to, with the events after it still to come (R193). -/
abbrev State.requested (s : State) (r : Req) (n : Nat) (frame : List Byte) (rest : List Event) : State :=
  State.issued { s with inputs := rest, timeoutIn := n } r frame (rlenOfCode r.cmd)

/-- The state in READING that the full write of its frame then leads to (R197). -/
abbrev State.awaitingReply (s : State) (r : Req) (n : Nat) (frame : List Byte) (rest : List Event) : State :=
  issueRead (rlenOfCode r.cmd) n (handOver frame frame.length (s.requested r n frame rest))

theorem step_requested (hi : s.inputs = .req r n :: rest) (hp : s.phase = .idle) (ho : s.isOpen = true)
    (h : encodeRequest s.cfg r = .ok frame) : step s = .next (s.requested r n frame rest) := by
  rw [step_cons s hi]
  exact (runRequest_eq _ r n).trans (request_issued hp ho h)

theorem step_awaitingReply (ho : s.isOpen = true) (hr : 0 < rlenOfCode r.cmd) :
    step (s.requested r n frame (.wdone frame.length :: rest)) = .next (s.awaitingReply r n frame rest) :=
  (step_wdone (s := s.requested r n frame (.wdone frame.length :: rest)) (l := requestLatch r frame) rfl rfl ho rfl rfl).trans
    (congrArg _ (completeWrite_flen_of_reply (l := requestLatch r frame) _ _ hr))

theorem step_replied (ho : s.isOpen = true) {bytes : List Byte} (hlen : bytes.length = rlenOfCode r.cmd) {res : DecResult}
    (h : decodeResponse (replyInputs bytes (requestLatch r frame) s) = .ok res) :
    step (s.awaitingReply r n frame (.rdone bytes :: rest)) = .next (finish (.ok (some res))
      (writeDecoded res (driveDecoder (replyInputs bytes (requestLatch r frame) s) (s.awaitingReply r n frame rest)))) :=
  (step_rdone (s := s.awaitingReply r n frame (.rdone bytes :: rest)) (l := requestLatch r frame) rfl rfl ho rfl).trans
    (congrArg _ (completeRead_of_decoded (s.awaitingReply r n frame rest) hlen h))

end Exchange

/-- Settles O39: the request issues its frame (`step_requested`), the full write issues the read (`step_awaitingReply`), and the full
reply decodes to what it spells (`step_replied`, `decodeResponse_load`). -/
theorem queryExchangeReturnsTheDecodedReply : Obligations.QueryExchangeReturnsTheDecodedReply := by
  intro s r n frame bytes rest _ hp ho hframe hquery hlen hi
  obtain ⟨c, hc, -⟩ | ⟨-, herr⟩ := encodeRequest_cases s.cfg r
  case inr => cases hframe.symm.trans herr
  have hdefined : r.cmd.toNat ≤ 9 := by rw [hc]; cases c <;> decide
  have hrlen : 0 < rlenOfCode r.cmd := (rlenOfCode_pos_iff _).mpr ⟨hquery, hdefined⟩
  obtain ⟨res, ⟨hstatus, hraw, hfirmware⟩, hdecoded⟩ := decodeResponse_load hrlen.ne' hlen s.decIn.rbuf
  have hrun := calc
    Host.Core.run Sys2Proof.core 3 s = Host.Core.run Sys2Proof.core 2 _ := run_succ (step_requested hi hp ho hframe) 2
    _ = Host.Core.run Sys2Proof.core 1 _ := run_succ (step_awaitingReply ho hrlen) 1
    _ = Host.Core.run Sys2Proof.core 0 _ := run_succ (step_replied ho hlen hdecoded) 0
  exact ⟨_, res, hrun, rfl, hstatus, hraw, hfirmware, by simp [State.issued], rfl, rfl, rfl, ho, rfl, rfl, rfl, rfl⟩

end Sys2Proof.Machine

/-! ### The Exchange Sequencer (spec/42_exchange_sequencer.md): the transition table, and what a step may move or mark -/

namespace Sys2Proof.Machine

variable {s t : State} {e : Event}

/-! #### Requests (R191-R193, R209) -/

/-- Settles O14: `request_invalid` where the encoder fails, `request_issued` where it gives a frame. -/
theorem admittedRequestsAreValidatedThenIssued : Obligations.AdmittedRequestsAreValidatedThenIssued := fun _ _ hp ho =>
  ⟨fun _ hfail => request_invalid hp ho hfail, fun _ hframe => request_issued hp ho hframe⟩

/-- Outside IDLE a request only adds F_BUSY (R191). -/
theorem request_of_busy (hp : s.phase ≠ .idle) (r : Req) : request r s = .next (raise .busy s) := by
  cases h : s.phase with
  | idle => exact absurd h hp
  | writing | reading => simp [request, h]

/-- In IDLE with OPEN = 0 a request only adds F_NOT_OPEN (R191). -/
theorem request_of_closed (hp : s.phase = .idle) (ho : s.isOpen = false) (r : Req) : request r s = .next (raise .notOpen s) := by
  simp [request, hp, ho]

/-- Settles O24: a request row is a request (`exec_request`), and `request_of_busy` and `request_of_closed` hold of every request. -/
theorem unadmittedRequestsOnlyMarkTheFault : Obligations.UnadmittedRequestsOnlyMarkTheFault := by
  refine fun s => ⟨fun hbusy => ⟨fun i hi => ?busyRow, request_of_busy hbusy⟩,
    fun hp ho => ⟨fun i hi => ?closedRow, request_of_closed hp ho⟩⟩
  case busyRow => exact (exec_request s i hi).trans (request_of_busy hbusy _)
  case closedRow => exact (exec_request s i hi).trans (request_of_closed hp ho _)

/-- A request on the ports that names a row runs it, the ports driven (R209). -/
theorem runRequest_of_row {r : Req} {i : Instr} (h : Instr.ofReq r = some i) (n : Nat) (s : State) :
    runRequest r n s = exec i (driveRequest r n s) := by
  simp [runRequest, h]

/-- Settles O44: the step is `runRequest`, which runs the row the request names and is in every case the request step (`runRequest_eq`). -/
theorem stepRunsTheRequestedRow : Obligations.StepRunsTheRequestedRow := fun s r n _ hi =>
  ⟨fun _ hrow => (step_cons s hi).trans (runRequest_of_row hrow n _), (step_cons s hi).trans (runRequest_eq _ r n)⟩

/-! #### A read completion, by its count (R199-R201) -/

theorem completeRead_of_rlen_lt (s : State) {bytes : List Byte} {l : Latch} (h : l.rlen < bytes.length) :
    completeRead bytes l s = raise .transportContract s := if_pos h

theorem completeRead_of_lt_rlen (s : State) {bytes : List Byte} {l : Latch} (h : bytes.length < l.rlen) :
    completeRead bytes l s = { finish (.readShortfall bytes.length) s with suspect := true } := by
  rw [completeRead, if_neg (Nat.lt_asymm h), if_pos h]

/-- Settles O33: the step completes the read (`step_rdone`), by the count against RLEN. -/
theorem shortAndLongReadsFollowTheTable : Obligations.ShortAndLongReadsFollowTheTable := by
  intro s bytes l rest hi hp ho hl
  rw [step_rdone hi hp ho hl]
  exact ⟨fun hlong => congrArg _ (completeRead_of_rlen_lt _ hlong), fun hshort => congrArg _ (completeRead_of_lt_rlen _ hshort)⟩

/-- In READING the latched command has a reply, so a whole one decodes: the sequencer never misuses the decoder (R200). -/
theorem State.Inv.decodes (h : s.Inv) (hp : s.phase = .reading) {l : Latch} (hl : s.cur = some l) {bytes : List Byte}
    (hlen : bytes.length = l.rlen) : ∃ res, decodeResponse (replyInputs bytes l s) = .ok res := by
  obtain ⟨-, -, -, -, hrlen⟩ := h.latchLegal l hl
  have hreply : rlenOfCode l.cmd ≠ 0 := hrlen ▸ (h.readingExpects hp l hl).ne'
  obtain ⟨res, -, hdecoded⟩ := decodeResponse_load hreply (hlen.trans hrlen) s.decIn.rbuf
  exact ⟨res, hdecoded⟩

/-- Settles O34: an exchange in READING has OPEN = 1, so the step completes the read, and its whole reply decodes (`State.Inv.decodes`). -/
theorem wholeReplyEndsTheExchangeWithItsResult : Obligations.WholeReplyEndsTheExchangeWithItsResult := by
  intro s bytes l rest hinv hi hp hl hlen
  obtain ⟨res, hdecoded⟩ := hinv.decodes hp hl hlen
  refine ⟨res, hdecoded, ?_⟩
  rw [step_rdone hi hp (hinv.openWhileBusy (by simp [hp])) hl]
  exact congrArg _ (completeRead_of_decoded { s with inputs := rest } hlen hdecoded)

/-! #### `open` and `close` (R198, R205) -/

theorem closeTransport_of_busy (hp : s.phase ≠ .idle) (ho : s.isOpen = true) : closeTransport s = .next (abandon s) := by
  cases h : s.phase with
  | idle => exact absurd h hp
  | writing | reading => simp [closeTransport, h, ho]

theorem closeTransport_of_idle (hp : s.phase = .idle) (ho : s.isOpen = true) : closeTransport s = .next { s with isOpen := false } := by
  simp [closeTransport, hp, ho]

theorem openTransport_of_closed (hp : s.phase = .idle) (ho : s.isOpen = false) : openTransport s = .next { s with isOpen := true } := by
  simp [openTransport, hp, ho]

/-- Settles O35: the step is the `close`, the `open`, or a completion, which has no step in IDLE (`runEvent_completion_of_idle`). -/
theorem openAndCloseFollowTheTable : Obligations.OpenAndCloseFollowTheTable := by
  refine fun s rest => ⟨fun hi ho hp => ?abandoned, fun hi ho hp => ?closed, fun hp hcompletion => ?late, fun hi ho hp => ?opened⟩
  case abandoned => exact (step_cons s hi).trans (closeTransport_of_busy hp ho)
  case closed => exact (step_cons s hi).trans (closeTransport_of_idle hp ho)
  case late => obtain ⟨w, hi⟩ | ⟨bytes, hi⟩ := hcompletion <;> exact (step_cons s hi).trans (runEvent_completion_of_idle hp rfl)
  case opened => exact (step_cons s hi).trans (openTransport_of_closed hp ho)

/-! #### A whole exchange without a reply (R192-R196) -/

/-- The full write of a command without a reply ends its exchange (R196). -/
theorem step_writtenWithoutReply {r : Req} {n : Nat} {frame : List Byte} {rest : List Event} (ho : s.isOpen = true)
    (hr : rlenOfCode r.cmd = 0) : step (s.requested r n frame (.wdone frame.length :: rest)) =
      .next (finish (.ok none) (handOver frame frame.length (s.requested r n frame rest))) :=
  (step_wdone (s := s.requested r n frame (.wdone frame.length :: rest)) (l := requestLatch r frame) rfl rfl ho rfl rfl).trans
    (congrArg _ (completeWrite_flen_of_noReply (l := requestLatch r frame) _ _ hr))

/-- Settles O40: the request issues its frame (`step_requested`), and the full write ends the exchange (`step_writtenWithoutReply`). -/
theorem commandExchangeEndsWithoutARead : Obligations.CommandExchangeEndsWithoutARead := by
  intro s r n frame rest hp ho hframe hcommand hi
  have hrlen : rlenOfCode r.cmd = 0 := by
    have := rlenOfCode_pos_iff r.cmd
    omega
  have hrun := calc
    Host.Core.run Sys2Proof.core 2 s = Host.Core.run Sys2Proof.core 1 _ := run_succ (step_requested hi hp ho hframe) 1
    _ = Host.Core.run Sys2Proof.core 0 _ := run_succ (step_writtenWithoutReply ho hrlen) 0
  exact ⟨_, hrun, rfl, by simp [State.issued], rfl, rfl, rfl, ho, rfl, rfl, rfl, rfl⟩

/-! #### PHASE and the transport calls (R205, R206) -/

/-- A step between two states may move PHASE and issue a transport call only so: no call with PHASE kept or back in IDLE, a TxWrite into WRITING, or
an RxRead into READING. -/
def PhaseMove (s t : State) : Prop :=
  (t.calls = s.calls ∧ (t.phase = s.phase ∨ t.phase = .idle)) ∨
  (s.phase = .idle ∧ t.phase = .writing ∧ ∃ frame n, t.calls = .txWrite frame n :: s.calls) ∨
  (s.phase = .writing ∧ t.phase = .reading ∧ ∃ n timeout, t.calls = .rxRead n timeout :: s.calls)

/-- An update within an exchange that keeps the calls and PHASE. -/
theorem SameExchange.phaseMove (h : SameExchange s t) : PhaseMove s t := .inl ⟨h.calls.symm, .inl h.phase.symm⟩

/-- Every transition is a move of the table. -/
theorem phaseMove_of_transition (h : Transition s e t) : PhaseMove s t := by
  cases h with
  | busy | notOpen | invalid | reply | writeNoValue | readNoValue | opened | closed | encoder => exact .inl ⟨rfl, .inl rfl⟩
  | issue p q n frame _ hp => exact .inr (.inl ⟨hp, rfl, frame, flenOf q, rfl⟩)
  | written w l n hp =>
    obtain ⟨-, hx⟩ | ⟨-, hx⟩ | ⟨-, -, hx⟩ | ⟨-, -, hx⟩ := completeWrite_cases s w l n <;> rw [hx]
    · exact .inl ⟨rfl, .inl rfl⟩
    · exact .inl ⟨rfl, .inr rfl⟩
    · exact .inl ⟨rfl, .inr rfl⟩
    · exact .inr (.inr ⟨hp, rfl, l.rlen, n, rfl⟩)
  | obtained bytes l =>
    obtain ⟨-, hx⟩ | ⟨-, hx⟩ | ⟨-, res, -, hx⟩ | ⟨-, f, -, hx⟩ := completeRead_cases s bytes l <;> rw [hx]
    · exact .inl ⟨rfl, .inl rfl⟩
    · exact .inl ⟨rfl, .inr rfl⟩
    · exact .inl ⟨rfl, .inr rfl⟩
    · exact .inl ⟨rfl, .inl rfl⟩
  | abandoned | reset => exact .inl ⟨rfl, .inr rfl⟩
  | decoder d => exact (SameExchange.of_evalDecoder d s).phaseMove
  | read p => exact (SameExchange.of_readPort p s).phaseMove

/-- Settles O37: a step makes one transition, and each is a move of the table (`phaseMove_of_transition`). -/
theorem phaseMovesOnlyAsTheTableLists : Obligations.PhaseMovesOnlyAsTheTableLists := by
  intro s t hstep
  obtain ⟨e, rest, -, ht⟩ := step_cases hstep
  have hmove := phaseMove_of_transition ht
  exact hmove

/-! #### The causes of the fault names (R232) -/

/-- The cause of each fault name, by the event and the state in which it is presented (R232). -/
def FaultCause (s : State) (e : Event) : FaultName → Prop
  | .busy => s.phase ≠ .idle ∧ ((∃ r n, e = .req r n) ∨ (∃ i n, e = .row i n ∧ i.isRequest = true))
  | .notOpen => s.isOpen = false ∧ ((∃ r n, e = .req r n) ∨ (∃ i n, e = .row i n ∧ i.isRequest = true))
  | .transportContract => ∃ l, s.cur = some l ∧ ((∃ w, e = .wdone w ∧ l.flen < w) ∨ (∃ bs, e = .rdone bs ∧ l.rlen < bs.length))
  | .noDecodePath => ∃ d, e = .evalDecoder d ∧ rlenOfCode d.dcmd = 0
  | .shortInput => ∃ d, e = .evalDecoder d ∧ d.rcnt.toNat < rlenOfCode d.dcmd
  | .noValue => ∃ p, e = .read p ∧ portValue p s = none

/-- FAULT gains at most one name, and only by its cause; a power-on reset empties it. -/
def FaultMove (s : State) (e : Event) (f g : FaultSet) : Prop :=
  g = f ∨ g = .empty ∨ ∃ n, g = f.insert n ∧ FaultCause s e n

/-- Under the invariant every transition moves FAULT by the cause of the name it adds: CUR and the latched TIMEOUT hold values when a completion
reads them, and the reply of the exchange decodes (`State.Inv.decodes`). -/
theorem faultMove_of_transition (hinv : s.Inv) (h : Transition s e t) :
    FaultMove { s with inputs := e :: s.inputs } e s.fault t.fault := by
  cases h with
  | busy p n he hp => exact .inr (.inr ⟨.busy, rfl, hp, presents_cases he⟩)
  | notOpen p n he _ ho => exact .inr (.inr ⟨.notOpen, rfl, ho, presents_cases he⟩)
  | invalid | issue | reply | opened | closed | abandoned | encoder => exact .inl rfl
  | writeNoValue w hp hnone =>
    have hlatch := hinv.latchIffBusy.mpr (by simp [hp])
    have htimeout := hinv.timeoutIffBusy.mpr (by simp [hp])
    obtain hc | hc := hnone
    · simp [hc] at hlatch
    · simp [hc] at htimeout
  | readNoValue bytes hp hnone =>
    have hlatch := hinv.latchIffBusy.mpr (by simp [hp])
    simp [hnone] at hlatch
  | written w l n _ _ hl =>
    obtain ⟨hw, hx⟩ | ⟨-, hx⟩ | ⟨-, -, hx⟩ | ⟨-, -, hx⟩ := completeWrite_cases s w l n <;> rw [hx]
    · exact .inr (.inr ⟨.transportContract, rfl, l, hl, .inl ⟨w, rfl, hw⟩⟩)
    all_goals exact .inl rfl
  | obtained bytes l hp _ hl =>
    obtain ⟨hc, hx⟩ | ⟨-, hx⟩ | ⟨-, res, -, hx⟩ | ⟨hlen, f, hf, hx⟩ := completeRead_cases s bytes l
    · rw [hx]
      exact .inr (.inr ⟨.transportContract, rfl, l, hl, .inr ⟨bytes, rfl, hc⟩⟩)
    · rw [hx]; exact .inl rfl
    · rw [hx]; exact .inl rfl
    · obtain ⟨res, hres⟩ := hinv.decodes hp hl hlen
      cases hres.symm.trans hf
  | decoder d =>
    obtain ⟨hr, hd⟩ | ⟨-, hr, hd⟩ | ⟨-, -, res, hd⟩ := decodeResponse_cases d
    · rw [evalDecoder_error s hd]
      exact .inr (.inr ⟨.noDecodePath, rfl, d, rfl, hr⟩)
    · rw [evalDecoder_error s hd]
      exact .inr (.inr ⟨.shortInput, rfl, d, rfl, hr⟩)
    · rw [evalDecoder_ok s hd]
      exact .inl rfl
  | read p =>
    obtain ⟨v, -, hx⟩ | ⟨hnone, hx⟩ := readPort_cases s p <;> rw [hx]
    · exact .inl rfl
    · exact .inr (.inr ⟨.noValue, rfl, p, rfl, hnone⟩)
  | reset => exact .inr (.inl rfl)

/-- A name in FAULT after a move was there before it, or has its cause. -/
theorem FaultMove.cause {f g : FaultSet} (h : FaultMove s e f g) (n : FaultName) (hn : g.mem n = true) :
    f.mem n = true ∨ FaultCause s e n := by
  obtain rfl | rfl | ⟨m, rfl, hm⟩ := h
  · exact .inl hn
  · simp at hn
  · rw [FaultSet.mem_insert, Bool.or_eq_true, decide_eq_true_eq] at hn
    obtain rfl | hn := hn
    · exact .inr hm
    · exact .inl hn

/-- Settles O48: a step makes one transition, which adds a name only by its cause (`faultMove_of_transition`). -/
theorem faultNamesAreAddedOnlyByTheirCause : Obligations.FaultNamesAreAddedOnlyByTheirCause := by
  intro s t e rest hinv hi hstep
  have hmove := faultMove_of_transition (hinv.withInputs rest) (step_transition hi hstep)
  have hpresented : { s with inputs := e :: rest } = s := by rw [← hi]
  have hcause : ∀ n, t.fault.mem n = true → s.fault.mem n = true ∨ FaultCause s e n := (hpresented ▸ hmove).cause
  exact ⟨hcause .busy, hcause .notOpen, hcause .transportContract, hcause .noDecodePath, hcause .shortInput, hcause .noValue⟩

end Sys2Proof.Machine

/-! ### Reset and hazards (spec/70_reset_and_hazards.md): what stays fixed over a run -/

namespace Sys2Proof.Machine

variable {s t : State} {e : Event}

/-! #### The configuration and OPEN (R30, R254) -/

/-- A write completion is no `close`, and changes no table. -/
theorem completeWrite_cfg_isOpen (s : State) (w : Nat) (l : Latch) (n : Nat) :
    (completeWrite w l n s).cfg = s.cfg ∧ (completeWrite w l n s).isOpen = s.isOpen := by
  obtain ⟨-, hx⟩ | ⟨-, hx⟩ | ⟨-, -, hx⟩ | ⟨-, -, hx⟩ := completeWrite_cases s w l n <;> rw [hx] <;> exact ⟨rfl, rfl⟩

/-- A read completion is no `close`, and changes no table. -/
theorem completeRead_cfg_isOpen (s : State) (bytes : List Byte) (l : Latch) :
    (completeRead bytes l s).cfg = s.cfg ∧ (completeRead bytes l s).isOpen = s.isOpen := by
  obtain ⟨-, hx⟩ | ⟨-, hx⟩ | ⟨-, res, -, hx⟩ | ⟨-, f, -, hx⟩ := completeRead_cases s bytes l <;> rw [hx] <;> exact ⟨rfl, rfl⟩

/-- Every transition keeps the configuration (R254). -/
theorem cfg_of_transition (h : Transition s e t) : t.cfg = s.cfg := by
  cases h with
  | busy | notOpen | invalid | issue | reply | writeNoValue | readNoValue | opened | closed | abandoned | encoder | reset => rfl
  | written w l n => exact (completeWrite_cfg_isOpen s w l n).1
  | obtained bytes l => exact (completeRead_cfg_isOpen s bytes l).1
  | decoder d => exact (SameExchange.of_evalDecoder d s).cfg.symm
  | read p => exact (SameExchange.of_readPort p s).cfg.symm

/-- Every transition keeps OPEN, or is the caller's `open` or `close` or a power-on reset (R30). -/
theorem isOpen_of_transition (h : Transition s e t) :
    t.isOpen = s.isOpen ∨ e = .openTransport ∨ e = .closeTransport ∨ e = .powerOn := by
  cases h with
  | busy | notOpen | invalid | issue | reply | writeNoValue | readNoValue | encoder => exact .inl rfl
  | written w l n => exact .inl (completeWrite_cfg_isOpen s w l n).2
  | obtained bytes l => exact .inl (completeRead_cfg_isOpen s bytes l).2
  | opened => exact .inr (.inl rfl)
  | closed | abandoned => exact .inr (.inr (.inl rfl))
  | decoder d => exact .inl (SameExchange.of_evalDecoder d s).isOpen.symm
  | read p => exact .inl (SameExchange.of_readPort p s).isOpen.symm
  | reset => exact .inr (.inr (.inr rfl))

/-- Settles O50: a step makes one transition, which keeps the configuration (`cfg_of_transition`) and moves OPEN only by the caller
(`isOpen_of_transition`). -/
theorem configurationIsFixedAndOpenIsTheCallers : Obligations.ConfigurationIsFixedAndOpenIsTheCallers := by
  intro s t e rest hi hstep
  have htransition := step_transition hi hstep
  have hcfg := cfg_of_transition htransition
  have hopen := isOpen_of_transition htransition
  exact ⟨hcfg, hopen.resolve_left⟩

end Sys2Proof.Machine
